-- ==== Sys2Proof/Word.lean ====
section
/-!
DEFINITION. The types of the values on the wires: bit vectors of the code (00_scope.md R8, section 5.1) and the three
buses of the core (30_encoding.md R61).
-/

namespace Sys2Proof

/-- A bit vector of length `n` of the code: a message (4), a channel vector, codeword or error vector (7), a syndrome
(3) (R8). Element `i` is bit `i`, bit 0 the least significant (20_memory.md R41), so `v.getLsbD i` is the spec's
`v[i]` and `v.toNat` the spec's `bus(v)`. -/
abbrev Vec (n : Nat) := BitVec n

/-- The value on the command port `cmd[16:0]` (R61, R62). -/
abbrev CmdWord := BitVec 17

/-- The value on the random-draw port `rnd[6:0]` (R61, 44_error_vectors.md R109). -/
abbrev Draw := BitVec 7

/-- The value on the response port `rsp[8:0]` (R61, R70). -/
abbrev RspWord := BitVec 9

end Sys2Proof
end

