-- ==== Sys2Proof/Syntax.lean ====
section
/-!
DEFINITION. The commands of the core: `Instr`, one constructor per row of spec/opcode_table.json with every bit of the
17-bit word outside `op` in one of its fields, and `Cmd`, the typed commands of the operation level (30_encoding.md R73).
-/

namespace Sys2Proof

/-- A command word taken apart (30_encoding.md R62, R63, R66). A field the operation does not read (R65) and a field it
only checks (R64) are kept, so that a word and its `Instr` determine each other (log entry 8). -/
inductive Instr where
  /-- ENC, op 0 (R90): unread `b`, checked bits `z = a[6:4]`, message `m = a[3:0]`. -/
  | enc (b : BitVec 7) (z : BitVec 3) (m : Vec 4)
  /-- SYN, op 1 (R95): unread `b`, channel vector `c = a`. -/
  | syn (b : BitVec 7) (c : Vec 7)
  /-- DEC, op 2 (R100): unread `b`, channel vector `c = a`. -/
  | dec (b : BitVec 7) (c : Vec 7)
  /-- ERRAT, op 3 (R105): unread `b`, position field `p = a`. -/
  | errat (b : BitVec 7) (p : BitVec 7)
  /-- RANDERR, op 4 (R108): unread `b` and `a`. -/
  | randerr (b a : BitVec 7)
  /-- APPLY, op 5 (R110): channel vector `c = a`, error vector `e = b`. -/
  | apply (c e : Vec 7)
  /-- COR, op 6 (R115): channel vector `c = a`, checked bits `z = b[6:3]`, syndrome `s = b[2:0]`. -/
  | cor (c : Vec 7) (z : BitVec 4) (s : Vec 3)
  /-- The reserved code, op 7 (R67): unread `b` and `a`. -/
  | reserved7 (b a : BitVec 7)
deriving DecidableEq, Repr

/-- A command of the operation level (R73). The position is any integer, as the source types it (44_error_vectors.md
R105); the port level presents only 0 to 127. -/
inductive Cmd where
  | enc (m : Vec 4)
  | syn (c : Vec 7)
  | dec (c : Vec 7)
  | errat (p : Int)
  | randerr
  | apply (c e : Vec 7)
  | cor (c : Vec 7) (s : Vec 3)
deriving DecidableEq, Repr

/-- The row of spec/opcode_table.json an instruction belongs to. -/
def Instr.mnemonic : Instr → String
  | .enc _ _ _ => "ENC"
  | .syn _ _ => "SYN"
  | .dec _ _ => "DEC"
  | .errat _ _ => "ERRAT"
  | .randerr _ _ => "RANDERR"
  | .apply _ _ => "APPLY"
  | .cor _ _ _ => "COR"
  | .reserved7 _ _ => "RESERVED7"

end Sys2Proof
end

