-- ==== Sys2Proof/Decode.lean ====
section
/-!
DEFINITION. The fields of the command word (30_encoding.md R62), the decoder from any word to an `Instr` (R63, R66), the
encoder back, the opcode map as rows of match and mask (R66), and the host's entry `decodeTableWord`.
-/

namespace Sys2Proof

/-- `cmd[16:14]` (R62). -/
def opField (w : CmdWord) : BitVec 3 := w.extractLsb' 14 3

/-- `cmd[13:7]` (R62). -/
def bField (w : CmdWord) : BitVec 7 := w.extractLsb' 7 7

/-- `cmd[6:0]` (R62). -/
def aField (w : CmdWord) : BitVec 7 := w.extractLsb' 0 7

/-- The instruction a command word spells (R66). Total on all 2^17 words: the eight codes leave no word over (R69). -/
def decode (w : CmdWord) : Instr :=
  match (opField w).toNat with
  | 0 => .enc (bField w) ((aField w).extractLsb' 4 3) ((aField w).extractLsb' 0 4)
  | 1 => .syn (bField w) (aField w)
  | 2 => .dec (bField w) (aField w)
  | 3 => .errat (bField w) (aField w)
  | 4 => .randerr (bField w) (aField w)
  | 5 => .apply (aField w) (bField w)
  | 6 => .cor (aField w) ((bField w).extractLsb' 3 4) ((bField w).extractLsb' 0 3)
  | _ => .reserved7 (bField w) (aField w)

/-- The command word `{op, b, a}` (R62). -/
def cmdWord (op : BitVec 3) (b a : BitVec 7) : CmdWord := op ++ b ++ a

/-- The word that spells an instruction, from the `encoding` column of R66. -/
def encode : Instr → CmdWord
  | .enc b z m => cmdWord 0#3 b (z ++ m)
  | .syn b c => cmdWord 1#3 b c
  | .dec b c => cmdWord 2#3 b c
  | .errat b p => cmdWord 3#3 b p
  | .randerr b a => cmdWord 4#3 b a
  | .apply c e => cmdWord 5#3 e c
  | .cor c z s => cmdWord 6#3 (z ++ s) c
  | .reserved7 b a => cmdWord 7#3 b a

/-- A row of the opcode map of R66: a word belongs to the row when `word AND mask = pattern`. -/
structure OpcodeRow where
  mnemonic : String
  pattern : CmdWord
  mask : CmdWord
deriving DecidableEq, Repr

/-- The opcode map (R66), `pattern` being the table's `match`. -/
def opcodeTable : List OpcodeRow :=
  [⟨"ENC", 0x00000#17, 0x1C000#17⟩, ⟨"SYN", 0x04000#17, 0x1C000#17⟩, ⟨"DEC", 0x08000#17, 0x1C000#17⟩,
   ⟨"ERRAT", 0x0C000#17, 0x1C000#17⟩, ⟨"RANDERR", 0x10000#17, 0x1C000#17⟩, ⟨"APPLY", 0x14000#17, 0x1C000#17⟩,
   ⟨"COR", 0x18000#17, 0x1C000#17⟩, ⟨"RESERVED7", 0x1C000#17, 0x1C000#17⟩]

/-- Why a number is no command word. -/
inductive DecodeReject where
  /-- It has a 1 above bit 16; the command port has 17 wires (R61), so no such word can be presented. -/
  | widerThanCmdPort
deriving DecidableEq, Repr

/-- The decoder on a number of any size: the 17 wires of the port, or a rejection by name (log entry 9). -/
def decodeNumber (n : Nat) : Except DecodeReject Instr :=
  if n < 2 ^ 17 then .ok (decode (BitVec.ofNat 17 n)) else .error .widerThanCmdPort

/-- The instruction the decoder reads from the low `nbits` bits of `w`, the bits above them being 0. -/
def decodeTableWord (nbits w : Nat) : Option Instr :=
  match decodeNumber (w % 2 ^ nbits) with
  | .ok i => some i
  | .error _ => none

end Sys2Proof
end

