-- ==== Sys2Proof/Machine/State.lean ====
section
/-!
DEFINITION. The fault kinds (60_exceptions.md R141), the responses of the operation level (30_encoding.md R73), the
reasons a step may be refused, and the state. The core itself keeps nothing (10_state.md R20, R21; 20_memory.md R40):
`State` holds the values on the three ports of 30_encoding.md R61 at one evaluation (log entry 1).
-/

namespace Sys2Proof.Machine

/-- The fault kinds of the core (R141). A fault is a value of the response, not a stop (R147, R149): an instruction that
raises one answers a NEXT state whose `rsp` carries its code, and no step ever answers `Host.Outcome.fault`
(20_memory.md R50; log entry 5). -/
inductive Fault where
  /-- Raised by ENC when `a[6:4]` is not zero and by COR when `b[6:3]` is not zero (R64), and by the untyped operation
  level on a sequence of the wrong length. Safe: the spec's own fault. -/
  | dimensionMismatch
  /-- Raised by ERRAT and RANDERR for a position outside [0,7) (R105, R108); COR's check of it is dead (R117). Safe: the
  spec's own fault. -/
  | outOfRange
  /-- Raised by the reserved code 7 (R67). Safe: the spec's own fault. -/
  | illegalOp
deriving DecidableEq, Repr

/-- A response of the operation level (R73): a vector whose length the operation fixes, or a fault kind and nothing else
(R148). -/
inductive Resp where
  | okVec7 (v : Vec 7)
  | okVec3 (v : Vec 3)
  | okVec4 (v : Vec 4)
  | fault (k : Fault)
deriving DecidableEq, Repr

/-- Why a step has no meaning. -/
inductive Refusal where
  /-- An instruction without a meaning. No arm of `exec` answers it: every row of the table is modelled. Safe. -/
  | notModelled (mnemonic : String)
deriving DecidableEq, Repr

/-- The values on the ports (R61). None of the three is storage of the core: `cmd` and `rnd` are the wires the host and
the random source drive, `rsp` the wires the core drives. -/
structure State where
  /-- `cmd[16:0]`, the command word being evaluated. -/
  cmd : CmdWord
  /-- `rnd[6:0]`, the draw offered for this command: a free input under no law (R109). -/
  rnd : Draw
  /-- `rsp[8:0]`, the response word. -/
  rsp : RspWord
deriving DecidableEq, Repr

/-- The ports before the first command. The core has no reset and nothing to reset (R33, R160), so the values on the
wires are the model's choice (log entry 2): inputs 0, and the response the function of R50 gives to them. -/
def State.reset : State where
  cmd := 0#17
  rnd := 0#7
  rsp := 0#9

end Sys2Proof.Machine
end

