-- ==== Sys2Proof/Machine/Operands.lean ====
section
/-!
DEFINITION. Every operand form of the seven operations (30_encoding.md R63 to R65): narrow vectors with their checked
bits, the position as an unsigned integer, and the draw. A 7-bit vector operand is its field as it stands.
-/

namespace Sys2Proof.Machine

/-- The message operand of ENC: the bits of the field above it must be zero (R64, D9). -/
def messageOperand (z : BitVec 3) (m : Vec 4) : Except Fault (Vec 4) :=
  if z = 0#3 then .ok m else .error .dimensionMismatch

/-- The syndrome operand of COR: the bits of the field above it must be zero (R64, D9). -/
def syndromeOperand (z : BitVec 4) (s : Vec 3) : Except Fault (Vec 3) :=
  if z = 0#4 then .ok s else .error .dimensionMismatch

/-- The position operand of ERRAT: the whole field, unsigned (R63, D16). -/
def positionOperand (p : BitVec 7) : Int := (p.toNat : Int)

/-- The operand of RANDERR: the draw on `rnd`, unsigned (R63, 44_error_vectors.md R109). -/
def drawOperand (r : Draw) : Int := (r.toNat : Int)

/-- The typed command an instruction spells, or the fault its decoding raises (R64, R67). -/
def typedCmd : Instr → Except Fault Cmd
  | .enc _ z m => (messageOperand z m).map .enc
  | .syn _ c => .ok (.syn c)
  | .dec _ c => .ok (.dec c)
  | .errat _ p => .ok (.errat (positionOperand p))
  | .randerr _ _ => .ok .randerr
  | .apply c e => .ok (.apply c e)
  | .cor c z s => (syndromeOperand z s).map (.cor c)
  | .reserved7 _ _ => .error .illegalOp

end Sys2Proof.Machine
end

