-- ==== Sys2Proof/Machine/Flags.lean ====
section
/-!
DEFINITION. The response word (30_encoding.md section 5). The core has no flags (10_state.md R20); what a command
reports about itself is the `fault` field of its response.
-/

namespace Sys2Proof.Machine

/-- The code of a fault kind in `rsp.fault` (60_exceptions.md R141). -/
def faultCode : Fault → BitVec 2
  | .dimensionMismatch => 1#2
  | .outOfRange => 2#2
  | .illegalOp => 3#2

/-- The fault kind a code stands for; code 0 is none (R141). -/
def faultOfCode (f : BitVec 2) : Option Fault :=
  match f.toNat with
  | 0 => none
  | 1 => some .dimensionMismatch
  | 2 => some .outOfRange
  | _ => some .illegalOp

/-- The response word `{fault, y}` (R70). -/
def rspWord (f : BitVec 2) (y : Vec 7) : RspWord := f ++ y

/-- `rsp[8:7]` (R70). -/
def rspFault (r : RspWord) : BitVec 2 := r.extractLsb' 7 2

/-- `rsp[6:0]` (R70). -/
def rspY (r : RspWord) : Vec 7 := r.extractLsb' 0 7

/-- The response encoder (R71): a result in the low bits of `y` with zeros above it (R72), a fault with `y` zero. -/
def encodeRsp : Resp → RspWord
  | .okVec7 v => rspWord 0#2 v
  | .okVec3 v => rspWord 0#2 (v.zeroExtend 7)
  | .okVec4 v => rspWord 0#2 (v.zeroExtend 7)
  | .fault k => rspWord (faultCode k) 0#7

end Sys2Proof.Machine
end

