-- ==== Sys2Proof/Config.lean ====
section
/-!
DEFINITION. What a build of the core fixes and no command can change (00_scope.md R9, 10_state.md section 2): the shape
of the three matrices and the significance order of the syndrome. Their values are in Machine/Netlist.lean. There is no
free value here: the one open value of the spec, the draw, is an input (44_error_vectors.md R109).
-/

namespace Sys2Proof

/-- A matrix over {0,1} with `r` rows and `c` columns, row 0 first (00_scope.md section 5.1). Row `i` is held as a bit
vector whose bit `j` is the entry `A[i][j]` (log entry 12). The type carries clause CI1 of 10_state.md R27. -/
abbrev Mat (r c : Nat) := Vector (BitVec c) r

/-- The parameter `SYN_ORDER` (10_state.md R31): which syndrome element is least significant in `val`. -/
inductive SynOrder where
  /-- Element 0 is least significant: the spec's value (D1). -/
  | lsbFirst
  /-- Element 0 is most significant: the named alternative. -/
  | msbFirst
deriving DecidableEq, Repr

/-- A configuration: the generator, parity-check and decoder matrices (00_scope.md R9) and the syndrome order. -/
structure Cfg where
  G : Mat 7 4
  H : Mat 3 7
  R : Mat 4 7
  synOrder : SynOrder
deriving DecidableEq, Repr

end Sys2Proof
end

