-- ==== Sys2Proof/Machine/Gf2.lean ====
section
/-!
DEFINITION. The arithmetic all operations share (40_gf2_arithmetic.md): GF(2), vectors and matrices over it, and the
syndrome as a number.
-/

namespace Sys2Proof.Machine

/-- Addition in GF(2) (R80). -/
def gf2Add (x y : Bool) : Bool := x ^^ y

/-- Multiplication in GF(2) (R81). -/
def gf2Mul (x y : Bool) : Bool := x && y

/-- `XOR over i in [0,n) of t(i)` (00_scope.md section 5.3). -/
def xorSum : Nat → (Nat → Bool) → Bool
  | 0, _ => false
  | n + 1, t => gf2Add (xorSum n t) (t n)

/-- The vector of length `n` with elements `f 0`, ..., `f (n-1)`. -/
def vecOf : (n : Nat) → (Nat → Bool) → Vec n
  | 0, _ => 0#0
  | n + 1, f => BitVec.cons (f n) (vecOf n f)

/-- The entry `A[i][j]` (00_scope.md section 5.1). -/
def entry {r c : Nat} (A : Mat r c) (i j : Nat) : Bool := ((A[i]?).getD 0#c).getLsbD j

/-- Column `j` of a matrix, a vector of length `r`. -/
def column {r c : Nat} (A : Mat r c) (j : Nat) : Vec r := vecOf r fun i => entry A i j

/-- The matrix-vector product over GF(2) (R83). -/
def mulVec {r c : Nat} (A : Mat r c) (v : Vec c) : Vec r :=
  vecOf r fun i => xorSum c fun j => gf2Mul (entry A i j) (v.getLsbD j)

/-- The sum of two vectors, element by element (R86). -/
def vecAdd {n : Nat} (u v : Vec n) : Vec n := vecOf n fun i => gf2Add (u.getLsbD i) (v.getLsbD i)

/-- The unit vector of length `n` with its 1 at index `p`: it compares, it does not shift (R88). -/
def unitVec (n p : Nat) : Vec n := vecOf n fun i => i == p

/-- `val` of a syndrome (R85; 10_state.md R31 for the other order), in [0,8). -/
def val : SynOrder → Vec 3 → Nat
  | .lsbFirst, s => (s.getLsbD 0).toNat + 2 * (s.getLsbD 1).toNat + 4 * (s.getLsbD 2).toNat
  | .msbFirst, s => 4 * (s.getLsbD 0).toNat + 2 * (s.getLsbD 1).toNat + (s.getLsbD 2).toNat

/-- The number of ones of a vector. -/
def weight {n : Nat} (v : Vec n) : Nat := ((List.range n).filter fun i => v.getLsbD i).length

end Sys2Proof.Machine
end

