-- ==== Sys2Proof/Machine/Netlist.lean ====
section
/-!
DEFINITION. The constants of the netlist (10_state.md R22 to R24), the invariants a configuration must meet (R27), the
alternative syndrome order (R31), and construction, which refuses anything else (R27, R162; 93 U1).
-/

namespace Sys2Proof.Machine

/-- A row in the list form of 00_scope.md section 5.1: the head is column 0. -/
def rowOf (c : Nat) (bits : List Nat) : BitVec c := vecOf c fun j => bits[j]? == some 1

/-- The parity-check matrix (R22). -/
def matH : Mat 3 7 :=
  #v[rowOf 7 [1, 0, 1, 0, 1, 0, 1],
     rowOf 7 [0, 1, 1, 0, 0, 1, 1],
     rowOf 7 [0, 0, 0, 1, 1, 1, 1]]

/-- The generator matrix (R23, D3; log entry 6). -/
def matG : Mat 7 4 :=
  #v[rowOf 4 [1, 1, 0, 1],
     rowOf 4 [1, 0, 1, 1],
     rowOf 4 [1, 0, 0, 0],
     rowOf 4 [0, 1, 1, 1],
     rowOf 4 [0, 1, 0, 0],
     rowOf 4 [0, 0, 1, 0],
     rowOf 4 [0, 0, 0, 1]]

/-- The decoder matrix (R24, D4; log entry 6). -/
def matR : Mat 4 7 :=
  #v[rowOf 7 [0, 0, 1, 0, 0, 0, 0],
     rowOf 7 [0, 0, 0, 0, 1, 0, 0],
     rowOf 7 [0, 0, 0, 0, 0, 1, 0],
     rowOf 7 [0, 0, 0, 0, 0, 0, 1]]

/-- The parity-check matrix under `MSB_FIRST` (R31): rows 0 and 2 exchanged. -/
def matHMsb : Mat 3 7 :=
  #v[rowOf 7 [0, 0, 0, 1, 1, 1, 1],
     rowOf 7 [0, 1, 1, 0, 0, 1, 1],
     rowOf 7 [1, 0, 1, 0, 1, 0, 1]]

/-- The configuration of this hardware (00_scope.md R9). -/
def netlist : Cfg := ⟨matG, matH, matR, .lsbFirst⟩

/-- The alternative configuration under `SYN_ORDER = MSB_FIRST` (R31). -/
def netlistMsb : Cfg := ⟨matG, matHMsb, matR, .msbFirst⟩

/-- Clause CI2 of R27: `R · G` is the identity. -/
abbrev RoundTripClause (cfg : Cfg) : Prop :=
  ∀ i < 4, ∀ j < 4, xorSum 7 (fun k => gf2Mul (entry cfg.R i k) (entry cfg.G k j)) = (i == j)

/-- Clause CI3 of R27: the syndrome of the error at position `p` reads `p + 1`. -/
abbrev ErrorLocationClause (cfg : Cfg) : Prop :=
  ∀ p < 7, val cfg.synOrder (mulVec cfg.H (unitVec 7 p)) = p + 1

/-- Clause CI4 of R27: `H · G` is the zero matrix. -/
abbrev ZeroSyndromeClause (cfg : Cfg) : Prop :=
  ∀ k < 3, ∀ j < 4, xorSum 7 (fun i => gf2Mul (entry cfg.H k i) (entry cfg.G i j)) = false

/-- The invariants of a configuration (R27). Clause CI1, dimensions and bits, is the type of the matrices; `buildCfg`
checks it on rows. -/
abbrev CfgOK (cfg : Cfg) : Prop :=
  RoundTripClause cfg ∧ ErrorLocationClause cfg ∧ ZeroSyndromeClause cfg

/-- Clause CI1 of R27 on rows as they are offered to construction: `r` rows of `c` entries, each 0 or 1. -/
def dimensionsOk (r c : Nat) (rows : List (List Nat)) : Bool :=
  rows.length == r && rows.all fun row => row.length == c && row.all fun x => x == 0 || x == 1

/-- The matrix with the given rows. -/
def matOfRows (r c : Nat) (rows : List (List Nat)) : Mat r c :=
  Vector.ofFn fun i => rowOf c (rows.getD i [])

/-- Construction of a core from the rows of G, H and R: it fails unless `CfgOK` holds (R27, D19; log entry 11). -/
def buildCfg (g h r : List (List Nat)) (o : SynOrder) : Option Cfg :=
  if dimensionsOk 7 4 g && dimensionsOk 3 7 h && dimensionsOk 4 7 r then
    let cfg : Cfg := ⟨matOfRows 7 4 g, matOfRows 3 7 h, matOfRows 4 7 r, o⟩
    if CfgOK cfg then some cfg else none
  else none

end Sys2Proof.Machine
end

