-- ==== Sys2Proof/Machine/Ops.lean ====
section
/-!
DEFINITION. The operations of the engine at the typed operation level (41_encode.md to 45_correct.md), for any
configuration, and the shared operations on the ports: driving the inputs, answering a response, reporting a fault. The
core has no register and no memory for an operation to act on (10_state.md R20, 20_memory.md R40).
-/

namespace Sys2Proof.Machine

/-- ENC: `G · m` (R90). -/
def opEnc (cfg : Cfg) (m : Vec 4) : Vec 7 := mulVec cfg.G m

/-- SYN: `H · c` (R95). -/
def opSyn (cfg : Cfg) (c : Vec 7) : Vec 3 := mulVec cfg.H c

/-- DEC: `R · c`, no correction and no check (R100). -/
def opDec (cfg : Cfg) (c : Vec 7) : Vec 4 := mulVec cfg.R c

/-- ERRAT: the unit vector at a position, any integer being offered (R105). -/
def opErrat (p : Int) : Except Fault (Vec 7) :=
  if p < 0 ∨ 7 ≤ p then .error .outOfRange else .ok (unitVec 7 p.toNat)

/-- RANDERR: ERRAT of the draw (R108). -/
def opRanderr (draw : Int) : Except Fault (Vec 7) := opErrat draw

/-- APPLY: the sum of two 7-bit vectors, of any weight (R110, R111). -/
def opApply (c e : Vec 7) : Vec 7 := vecAdd c e

/-- COR (R115). The zero syndrome is tested first, so that -1 is never offered to ERRAT. The syndrome is an operand: it
is not computed from `c` (R118). -/
def opCor (cfg : Cfg) (c : Vec 7) (s : Vec 3) : Except Fault (Vec 7) :=
  if val cfg.synOrder s = 0 then .ok c
  else
    match opErrat ((val cfg.synOrder s : Int) - 1) with
    | .error k => .error k
    | .ok e => .ok (opApply c e)

/-- A 7-bit result or a fault as a response (30_encoding.md R73). -/
def respOfVec7 : Except Fault (Vec 7) → Resp
  | .ok v => .okVec7 v
  | .error k => .fault k

/-- The host and the random source put values on the input wires (R61, R170). -/
def State.drive (cmd : CmdWord) (rnd : Draw) (s : State) : State := { s with cmd := cmd, rnd := rnd }

/-- The core drives the response wires with a response (R61, R71) and nothing else changes (R49). -/
def State.answer (r : Resp) (s : State) : State := { s with rsp := encodeRsp r }

/-- The outcome of a command that is answered: a next state (20_memory.md R50). -/
def answerWith (r : Resp) (s : State) : Host.Outcome State Fault Refusal := .next (s.answer r)

/-- Taking a fault (60_exceptions.md R147, R148): it is reported in the response to its command, `y` zero; nothing is
saved, no mode changes and control goes nowhere. There is no return from it, since there is nothing to restore (R149):
the next command is answered as any other. -/
def takeFault (k : Fault) (s : State) : Host.Outcome State Fault Refusal := .next (s.answer (.fault k))

end Sys2Proof.Machine
end

