-- ==== Sys2Proof/Machine/Corrector.lean ====
section
/-!
DEFINITION. The meaning of COR (45_correct.md).
-/

namespace Sys2Proof.Machine

/-- COR (R115). The checked bits are tested before the syndrome is read (60_exceptions.md R145). -/
def execCor (c : Vec 7) (z : BitVec 4) (syndrome : Vec 3) (s : State) : Host.Outcome State Fault Refusal :=
  match syndromeOperand z syndrome with
  | .error k => takeFault k s
  | .ok syndrome =>
    match opCor netlist c syndrome with
    | .error k => takeFault k s
    | .ok v => answerWith (.okVec7 v) s

end Sys2Proof.Machine
end

