-- ==== Sys2Proof/Machine/ErrorVectors.lean ====
section
/-!
DEFINITION. The meanings of the error-vector operations: ERRAT, RANDERR, APPLY (44_error_vectors.md).
-/

namespace Sys2Proof.Machine

/-- ERRAT (R105). -/
def execErrat (_b : BitVec 7) (p : BitVec 7) (s : State) : Host.Outcome State Fault Refusal :=
  match opErrat (positionOperand p) with
  | .error k => takeFault k s
  | .ok e => answerWith (.okVec7 e) s

/-- RANDERR (R108): its one operand is the draw on `rnd`. -/
def execRanderr (_b _a : BitVec 7) (s : State) : Host.Outcome State Fault Refusal :=
  match opRanderr (drawOperand s.rnd) with
  | .error k => takeFault k s
  | .ok e => answerWith (.okVec7 e) s

/-- APPLY (R110). -/
def execApply (c e : Vec 7) (s : State) : Host.Outcome State Fault Refusal :=
  answerWith (.okVec7 (opApply c e)) s

end Sys2Proof.Machine
end

