-- ==== Sys2Proof/Machine/MatrixOps.lean ====
section
/-!
DEFINITION. The meanings of the three matrix products: ENC (41_encode.md), SYN (42_syndrome.md), DEC (43_decode.md).
-/

namespace Sys2Proof.Machine

/-- ENC (R90). -/
def execEnc (_b : BitVec 7) (z : BitVec 3) (m : Vec 4) (s : State) : Host.Outcome State Fault Refusal :=
  match messageOperand z m with
  | .error k => takeFault k s
  | .ok m => answerWith (.okVec7 (opEnc netlist m)) s

/-- SYN (R95). -/
def execSyn (_b : BitVec 7) (c : Vec 7) (s : State) : Host.Outcome State Fault Refusal :=
  answerWith (.okVec3 (opSyn netlist c)) s

/-- DEC (R100). -/
def execDec (_b : BitVec 7) (c : Vec 7) (s : State) : Host.Outcome State Fault Refusal :=
  answerWith (.okVec4 (opDec netlist c)) s

end Sys2Proof.Machine
end

