-- ==== Sys2Proof/Machine/Reserved.lean ====
section
/-!
DEFINITION. The reserved code 7 (30_encoding.md R67).
-/

namespace Sys2Proof.Machine

/-- Code 7 spells no operation; its response is `IllegalOp` whatever the other fields hold (R67). -/
def execReserved7 (_b _a : BitVec 7) (s : State) : Host.Outcome State Fault Refusal := takeFault .illegalOp s

end Sys2Proof.Machine
end

