-- ==== Sys2Proof/Machine/Dispatch.lean ====
section
/-! DEFINITION. One arm per row of spec/opcode_table.json (30_encoding.md R66). -/

namespace Sys2Proof.Machine

def exec (i : Instr) (s : State) : Host.Outcome State Fault Refusal :=
  match i with
  | .enc b z m => Sys2Proof.Machine.execEnc b z m s
  | .syn b c => Sys2Proof.Machine.execSyn b c s
  | .dec b c => Sys2Proof.Machine.execDec b c s
  | .errat b p => Sys2Proof.Machine.execErrat b p s
  | .randerr b a => Sys2Proof.Machine.execRanderr b a s
  | .apply c e => Sys2Proof.Machine.execApply c e s
  | .cor c z y => Sys2Proof.Machine.execCor c z y s
  | .reserved7 b a => Sys2Proof.Machine.execReserved7 b a s

end Sys2Proof.Machine
end

