-- ==== Sys2Proof/Machine/Step.lean ====
section
/-!
DEFINITION. One step: one evaluation of the combinational function for the present values of `cmd` and `rnd`
(30_encoding.md R61).
-/

namespace Sys2Proof.Machine

/-- The command on the port is decoded and answered. The core has no program counter and chooses no next command
(10_state.md R21), so the inputs stay as the host drives them (log entry 3). -/
def step (s : State) : Host.Outcome State Fault Refusal := exec (decode s.cmd) s

/-- The command port driven with the low `nbits` bits of `w`: where a step takes its next instruction from (log
entry 4). -/
def State.withFetchWord (s : State) (nbits w : Nat) : State := { s with cmd := BitVec.ofNat 17 (w % 2 ^ nbits) }

end Sys2Proof.Machine
end

