-- ==== Sys2Proof/Machine/Gates.lean ====
section
/-!
DEFINITION. The gate-level reading of the four blocks: the equations of 10_state.md R25 and the one-hot decoder and XOR
gates of 45_correct.md R116, written without the matrices. They serve as an independent description of the blocks.
-/

namespace Sys2Proof.Machine

/-- The encoder's XOR gates: `G · m` of R25. -/
def encGates (m : Vec 4) : Vec 7 :=
  vecOf 7 fun
    | 0 => m.getLsbD 0 ^^ m.getLsbD 1 ^^ m.getLsbD 3
    | 1 => m.getLsbD 0 ^^ m.getLsbD 2 ^^ m.getLsbD 3
    | 2 => m.getLsbD 0
    | 3 => m.getLsbD 1 ^^ m.getLsbD 2 ^^ m.getLsbD 3
    | 4 => m.getLsbD 1
    | 5 => m.getLsbD 2
    | _ => m.getLsbD 3

/-- The syndrome decoder's XOR gates: `H · c` of R25. -/
def synGates (c : Vec 7) : Vec 3 :=
  vecOf 3 fun
    | 0 => c.getLsbD 0 ^^ c.getLsbD 2 ^^ c.getLsbD 4 ^^ c.getLsbD 6
    | 1 => c.getLsbD 1 ^^ c.getLsbD 2 ^^ c.getLsbD 5 ^^ c.getLsbD 6
    | _ => c.getLsbD 3 ^^ c.getLsbD 4 ^^ c.getLsbD 5 ^^ c.getLsbD 6

/-- The message extractor's wires: `R · c` of R25. -/
def decGates (c : Vec 7) : Vec 4 :=
  vecOf 4 fun
    | 0 => c.getLsbD 2
    | 1 => c.getLsbD 4
    | 2 => c.getLsbD 5
    | _ => c.getLsbD 6

/-- Output `i + 1` of the corrector's one-hot decoder, `hit[i]` of R116 under `LSB_FIRST`. -/
def hitGate (s : Vec 3) : Nat → Bool
  | 0 => s.getLsbD 0 && !s.getLsbD 1 && !s.getLsbD 2
  | 1 => !s.getLsbD 0 && s.getLsbD 1 && !s.getLsbD 2
  | 2 => s.getLsbD 0 && s.getLsbD 1 && !s.getLsbD 2
  | 3 => !s.getLsbD 0 && !s.getLsbD 1 && s.getLsbD 2
  | 4 => s.getLsbD 0 && !s.getLsbD 1 && s.getLsbD 2
  | 5 => !s.getLsbD 0 && s.getLsbD 1 && s.getLsbD 2
  | 6 => s.getLsbD 0 && s.getLsbD 1 && s.getLsbD 2
  | _ => false

/-- The corrector as one XOR gate per bit (R116). -/
def corGates (c : Vec 7) (s : Vec 3) : Vec 7 := vecOf 7 fun i => c.getLsbD i ^^ hitGate s i

end Sys2Proof.Machine
end

