-- ==== Sys2Proof/Machine/Sequences.lean ====
section
/-!
DEFINITION. The operation level on untyped sequences of bits (30_encoding.md R64; 90_conflicts.md C6): the operations as
the source types them, where an operand of the wrong length raises `DimensionMismatch` and is never cut or padded.
-/

namespace Sys2Proof.Machine

/-- The list form `[v[0], ..., v[n-1]]` of a vector (00_scope.md section 5.1). -/
def listOf {n : Nat} (v : Vec n) : List Bool := (List.range n).map fun i => v.getLsbD i

/-- The vector a sequence is, where its length is the operation's (R64). -/
def vecOfList (n : Nat) (l : List Bool) : Except Fault (Vec n) :=
  if l.length = n then .ok (vecOf n fun i => l.getD i false) else .error .dimensionMismatch

/-- `encode` on a sequence. -/
def seqEnc (cfg : Cfg) (m : List Bool) : Except Fault (List Bool) :=
  (vecOfList 4 m).map fun m => listOf (opEnc cfg m)

/-- `syndrome` on a sequence. -/
def seqSyn (cfg : Cfg) (c : List Bool) : Except Fault (List Bool) :=
  (vecOfList 7 c).map fun c => listOf (opSyn cfg c)

/-- `decode` on a sequence. -/
def seqDec (cfg : Cfg) (c : List Bool) : Except Fault (List Bool) :=
  (vecOfList 7 c).map fun c => listOf (opDec cfg c)

/-- `errorAt` of an integer, its result a sequence. -/
def seqErrat (p : Int) : Except Fault (List Bool) := (opErrat p).map listOf

/-- `applyError` on sequences. -/
def seqApply (c e : List Bool) : Except Fault (List Bool) :=
  match vecOfList 7 c, vecOfList 7 e with
  | .ok c, .ok e => .ok (listOf (opApply c e))
  | .error k, _ => .error k
  | _, .error k => .error k

/-- `correct` on sequences: the lengths are tested before the location (60_exceptions.md R145). -/
def seqCor (cfg : Cfg) (c s : List Bool) : Except Fault (List Bool) :=
  match vecOfList 7 c, vecOfList 3 s with
  | .ok c, .ok s => (opCor cfg c s).map listOf
  | .error k, _ => .error k
  | _, .error k => .error k

end Sys2Proof.Machine
end

