-- ==== Sys2Proof/Machine/ResponseFunction.lean ====
section
/-!
DEFINITION. The function of the core as one formula, `F(cfg, cmd, rnd) = encode_rsp(exec(cfg, decode_cmd(cmd), rnd))`
(20_memory.md R50, 30_encoding.md R71), for any configuration: the decoder as R68 writes it, the typed commands, and the
response encoder. It shares no path with `exec`; that `step` computes it is a statement of this package.
-/

namespace Sys2Proof.Machine

/-- The decoder from a command word to a typed command or a fault, its tests in the order of R68 (R145). -/
def decodeCmd (w : CmdWord) : Except Fault Cmd :=
  let op := opField w
  let b := bField w
  let a := aField w
  if op = 7#3 then .error .illegalOp
  else if op = 0#3 ∧ a.extractLsb' 4 3 ≠ 0#3 then .error .dimensionMismatch
  else if op = 6#3 ∧ b.extractLsb' 3 4 ≠ 0#4 then .error .dimensionMismatch
  else if op = 0#3 then .ok (.enc (a.extractLsb' 0 4))
  else if op = 1#3 then .ok (.syn a)
  else if op = 2#3 then .ok (.dec a)
  else if op = 3#3 then .ok (.errat a.toNat)
  else if op = 4#3 then .ok .randerr
  else if op = 5#3 then .ok (.apply a b)
  else .ok (.cor a (b.extractLsb' 0 3))

/-- The response to a typed command (R73), the draw being an input of RANDERR alone (44_error_vectors.md R109). -/
def evalCmd (cfg : Cfg) (draw : Int) : Cmd → Resp
  | .enc m => .okVec7 (opEnc cfg m)
  | .syn c => .okVec3 (opSyn cfg c)
  | .dec c => .okVec4 (opDec cfg c)
  | .errat p => respOfVec7 (opErrat p)
  | .randerr => respOfVec7 (opRanderr draw)
  | .apply c e => .okVec7 (opApply c e)
  | .cor c s => respOfVec7 (opCor cfg c s)

/-- The core's function from the two input words to the response word (20_memory.md R50, R71). -/
def respond (cfg : Cfg) (w : CmdWord) (rnd : Draw) : RspWord :=
  match decodeCmd w with
  | .error k => encodeRsp (.fault k)
  | .ok c => encodeRsp (evalCmd cfg (rnd.toNat : Int) c)

end Sys2Proof.Machine
end

