-- ==== Sys2Proof/Machine/HostProgram.lean ====
section
/-!
DEFINITION. The host beside the core: issuing commands one after another at the ports (20_memory.md R48), and the host
programs of 30_encoding.md R74, R75 with the end of a run of 70_reset_and_hazards.md R172. Nothing here is state of the
core: the table of named values is the host's.
-/

namespace Sys2Proof.Machine

/-- Commands issued one after another, each with its draw: the responses, or `none` had a step not answered. -/
def issueAll : List (CmdWord × Draw) → State → Option (List RspWord)
  | [], _ => some []
  | (w, r) :: rest, s =>
    match step (s.drive w r) with
    | .next t => (issueAll rest t).map (t.rsp :: ·)
    | .fault _ => none
    | .refused _ => none

/-- An operand of a host command (R74): a value the host holds under a name, or a literal as its bus value. Names are
numbers here (log entry 10). -/
inductive HostArg where
  | held (name : Nat)
  | literal (v : Vec 7)
deriving DecidableEq, Repr

/-- A command of the host's notation (R74), operands in the source's argument order. -/
inductive HostOp where
  | enc (m : HostArg)
  | syn (c : HostArg)
  | dec (c : HostArg)
  | errat (p : HostArg)
  | randerr
  | apply (c e : HostArg)
  | cor (c s : HostArg)
deriving DecidableEq, Repr

/-- A line of a host program: a command whose result the host names `dest`, with the draw offered for it, or the
pseudo-operation NOERR, which issues no command (R75). -/
inductive HostLine where
  | issue (dest : Nat) (op : HostOp) (rnd : Draw)
  | noerr (dest : Nat)
deriving DecidableEq, Repr

/-- The host's named values, the newest first. A value is held as the 7 bits of `y` it was read from (R72). -/
abbrev HostTable := List (Nat × Vec 7)

/-- How a host run ends (R172). -/
inductive HostEnd where
  /-- After the response to the last command. -/
  | finished (t : HostTable)
  /-- At the first response with a fault; the faulting command's `dest` received no value (R74). -/
  | faulted (k : Fault) (t : HostTable)
  /-- A line named a value the host does not hold, so its command cannot be issued (20_memory.md R48). -/
  | unheld (t : HostTable)
deriving DecidableEq, Repr

/-- The value the host holds under a name. -/
def heldValue : HostTable → Nat → Option (Vec 7)
  | [], _ => none
  | (y, v) :: t, x => if x = y then some v else heldValue t x

/-- The value of an operand. -/
def argValue (t : HostTable) : HostArg → Option (Vec 7)
  | .held x => heldValue t x
  | .literal v => some v

/-- The word of a command with operand A alone, `b` driven to 0. -/
def wordWithA (op : BitVec 3) (a : Option (Vec 7)) : Option CmdWord := a.map fun a => cmdWord op 0#7 a

/-- The word of a command with both operands: the first source argument in `a`, the second in `b` (R74). -/
def wordWithAB (op : BitVec 3) (a b : Option (Vec 7)) : Option CmdWord :=
  match a, b with
  | some a, some b => some (cmdWord op b a)
  | none, _ => none
  | some _, none => none

/-- The command word the host drives for a command, if it holds the operands. -/
def hostWord (t : HostTable) : HostOp → Option CmdWord
  | .enc m => wordWithA 0#3 (argValue t m)
  | .syn c => wordWithA 1#3 (argValue t c)
  | .dec c => wordWithA 2#3 (argValue t c)
  | .errat p => wordWithA 3#3 (argValue t p)
  | .randerr => some (cmdWord 4#3 0#7 0#7)
  | .apply c e => wordWithAB 5#3 (argValue t c) (argValue t e)
  | .cor c s => wordWithAB 6#3 (argValue t c) (argValue t s)

/-- A run of a host program on a table (R172): `fault` is read before `y` (R169). -/
def runHost : List HostLine → HostTable → HostEnd
  | [], t => .finished t
  | .noerr d :: rest, t => runHost rest ((d, 0#7) :: t)
  | .issue d op rnd :: rest, t =>
    match hostWord t op with
    | none => .unheld t
    | some w =>
      match faultOfCode (rspFault (respond netlist w rnd)) with
      | some k => .faulted k t
      | none => runHost rest ((d, rspY (respond netlist w rnd)) :: t)

/-- FLIP (R75), with a temporary name the program uses nowhere else. -/
def flipLines (dest : Nat) (c p : HostArg) (t : Nat) : List HostLine :=
  [.issue t (.errat p) 0#7, .issue dest (.apply c (.held t)) 0#7]

/-- FIX (R75). -/
def fixLines (dest : Nat) (c : HostArg) (t : Nat) : List HostLine :=
  [.issue t (.syn c) 0#7, .issue dest (.cor c (.held t)) 0#7]

/-- RECOVER (R75). -/
def recoverLines (dest : Nat) (c : HostArg) (t u : Nat) : List HostLine :=
  [.issue t (.syn c) 0#7, .issue u (.cor c (.held t)) 0#7, .issue dest (.dec (.held u)) 0#7]

end Sys2Proof.Machine
end

