-- ==== Sys2Proof/Machine/Journey.lean ====
section
/-!
DEFINITION. The sequences of operations the spec names (30_encoding.md R75, 45_correct.md R119) at the typed operation
level, and valid codewords. The core has no fused operation (D26): these are what a host computes with several commands.
-/

namespace Sys2Proof.Machine

/-- FLIP: the unit vector of a position, applied (R75). -/
def opFlip (c : Vec 7) (p : Int) : Except Fault (Vec 7) :=
  match opErrat p with
  | .error k => .error k
  | .ok e => .ok (opApply c e)

/-- FIX: COR with the vector's own syndrome (R75, R119). -/
def opFix (cfg : Cfg) (c : Vec 7) : Except Fault (Vec 7) := opCor cfg c (opSyn cfg c)

/-- RECOVER: the receive side, SYN then COR then DEC (R75, 70_reset_and_hazards.md R166). -/
def opRecover (cfg : Cfg) (c : Vec 7) : Except Fault (Vec 4) :=
  match opFix cfg c with
  | .error k => .error k
  | .ok u => .ok (opDec cfg u)

/-- A valid codeword: a result of ENC. That these are the vectors with zero syndrome (00_scope.md R12) is R96 (a). -/
abbrev ValidCodeword (cfg : Cfg) (c : Vec 7) : Prop := ∃ m : Vec 4, opEnc cfg m = c

end Sys2Proof.Machine
end

