-- ==== Sys2Proof/Safety.lean ====
section
/-!
DEFINITION. What the claims call a settled, a legal and a fault-free response, and the contracts of the environment.
-/

namespace Sys2Proof.Machine

/-- The response on the wires is the function of the inputs on the wires (20_memory.md R50, 10_state.md R33): what holds
whenever the combinational core has been evaluated. -/
def State.Settled (s : State) : Prop := s.rsp = respond netlist s.cmd s.rnd

/-- A legal response word: under a fault `y` is zero (30_encoding.md R70, 60_exceptions.md R148). -/
def State.LegalResponse (s : State) : Prop := rspFault s.rsp ≠ 0#2 → rspY s.rsp = 0#7

/-- The response is a result and may be read as one (70_reset_and_hazards.md R169). -/
def State.FaultFree (s : State) : Prop := rspFault s.rsp = 0#2

/-- The environment's contract on the draw (44_error_vectors.md R109). -/
def DrawInContract (r : Draw) : Prop := r.toNat < 7

end Sys2Proof.Machine
end

