-- ==== Sys2Proof/WellFormed.lean ====
section
/-!
DEFINITION. Which command words spell a typed command (30_encoding.md R64, R67, R73). Every field of an `Instr` has its
exact width by type, so what is left to check is that a narrow operand fits its field and that the code is assigned.
-/

namespace Sys2Proof

/-- The instruction spells a command of R73: the checked bits of ENC and COR are zero (R64) and the code is not the
reserved one (R67). An instruction that is not well formed still runs: it answers its fault. -/
def Instr.wellFormed : Instr → Bool
  | .enc _ z _ => z == 0#3
  | .syn _ _ => true
  | .dec _ _ => true
  | .errat _ _ => true
  | .randerr _ _ => true
  | .apply _ _ => true
  | .cor _ z _ => z == 0#4
  | .reserved7 _ _ => false

end Sys2Proof
end

