-- ==== Sys2Proof/Certificates/Slice0/Obligations.lean ====
section
/-!
DEFINITION. The statements for the provers. `OBLIGATIONS.json` gives each its title, its text and the rules it formalises.
A statement about correction is made for every configuration that meets `CfgOK` (70_reset_and_hazards.md R162); a
statement about `exec` or `step` is about this hardware's own constants. The frame of every instruction is stated whole
in `InstructionFrame`; memory and registers do not exist (10_state.md R20, 20_memory.md R40).
-/

open Sys2Proof Sys2Proof.Machine

/-! ### Encoding and decoding -/

/-- The word of an instruction decodes to it, every field at every value (R62, R66). -/
def Obligations.DecodeEncodeEveryInstr : Prop := ∀ i : Instr, decode (encode i) = i

/-- Every one of the 2^17 words is the word of the instruction it decodes to: decoding here drops no bit. That is the
model's choice, log entry 8 (`Instr` keeps unread and checked bits as fields); the spec's own decoder `decode_cmd` (R68)
yields typed operands only, and agrees with this one by `DecoderRefinesTypedCommand`. -/
def Obligations.EncodeDecodeEveryWord : Prop := ∀ w : CmdWord, encode (decode w) = w

/-- The match and mask of a row of R66 pick out exactly the words that decode to the row's instruction, and every word
belongs to exactly one row. -/
def Obligations.OpcodeMapPartitionsWords : Prop :=
  ∀ w : CmdWord,
    (∀ row ∈ opcodeTable, (w &&& row.mask = row.pattern ↔ (decode w).mnemonic = row.mnemonic)) ∧
    (opcodeTable.filter fun row => w &&& row.mask == row.pattern).length = 1

/-- Words written out from the encoding column of R66, unread and checked bits among them. -/
def Obligations.SpelledWordsDecode : Prop :=
  decode 0b00011111110001101#17 = .enc 0x7F#7 0#3 0xD#4 ∧
  decode 0b00000000000011101#17 = .enc 0#7 1#3 0xD#4 ∧
  decode 0b00100000001101110#17 = .syn 0#7 0x6E#7 ∧
  decode 0b01000000001100110#17 = .dec 0#7 0x66#7 ∧
  decode 0b01100000000000011#17 = .errat 0#7 3#7 ∧
  decode 0b10001010101010101#17 = .randerr 0x2A#7 0x55#7 ∧
  decode 0b10100010001100110#17 = .apply 0x66#7 0x08#7 ∧
  decode 0b11000001001101110#17 = .cor 0x6E#7 0#4 4#3 ∧
  decode 0b11010001001101110#17 = .cor 0x6E#7 8#4 4#3 ∧
  decode 0b11111111111111111#17 = .reserved7 0x7F#7 0x7F#7

/-- The decoder of R68, written as the rule writes it, agrees with taking a word apart (R66) and then typing its operands
(R64, R67). -/
def Obligations.DecoderRefinesTypedCommand : Prop := ∀ w : CmdWord, decodeCmd w = typedCmd (decode w)

/-- An instruction is well formed exactly when it spells a typed command of R73. -/
def Obligations.WellFormedSpellsCommand : Prop :=
  ∀ i : Instr, i.wellFormed = true ↔ ∃ c : Cmd, typedCmd i = .ok c

/-- A step runs the instruction on the command port and adds nothing of its own: no next address, no fetch (R21, R61).
The second clause, about `withFetchWord` and `decodeTableWord`, is the model's choice and no rule of the spec: log entry 4
says how a command comes to run, log entry 9 which numbers are command words. -/
def Obligations.StepRunsDecodedInstr : Prop :=
  (∀ (s : State) (i : Instr), decode s.cmd = i → step s = exec i s) ∧
  (∀ (s : State) (nbits w : Nat) (i : Instr), decodeTableWord nbits w = some i →
    step (s.withFetchWord nbits w) = exec i (s.withFetchWord nbits w))

/-! ### The machine as a whole -/

/-- The ports before the first command are settled and hold a legal response. The model's choice of the values on the
wires, log entry 2: the spec has no reset (R160). -/
def Obligations.ResetIsSettled : Prop := State.reset.Settled ∧ State.reset.LegalResponse

/-- Every instruction is answered, whatever its operands and whatever is on the ports: no step stops (R50). -/
def Obligations.EveryCommandAnswered : Prop :=
  (∀ (i : Instr) (s : State), ∃ t : State, exec i s = .next t) ∧ (∀ s : State, ∃ t : State, step s = .next t)

/-- The frame of all eight instructions, ENC, SYN, DEC, ERRAT, RANDERR, APPLY, COR and the reserved code: nothing but the
response word changes, `cmd` and `rnd` being inputs the core does not drive (R49, R61, R147). -/
def Obligations.InstructionFrame : Prop :=
  ∀ (i : Instr) (s t : State), exec i s = .next t → t.cmd = s.cmd ∧ t.rnd = s.rnd

/-- A step puts on `rsp` the one function of the command word and the draw, and of the draw for RANDERR alone (R50).
`respond` is that function written as R71 writes it, apart from `exec`. -/
def Obligations.StepComputesResponseFunction : Prop :=
  (∀ s : State, step s = .next { s with rsp := respond netlist s.cmd s.rnd }) ∧
  (∀ (w : CmdWord) (r r' : Draw), opField w ≠ 4#3 → respond netlist w r = respond netlist w r')

/-- The response encoder, word by word, and the composition of the core's function (R71). -/
def Obligations.ResponseEncoding : Prop :=
  (∀ v : Vec 7, encodeRsp (.okVec7 v) = 0#2 ++ v) ∧
  (∀ v : Vec 3, encodeRsp (.okVec3 v) = 0#6 ++ v) ∧
  (∀ v : Vec 4, encodeRsp (.okVec4 v) = 0#5 ++ v) ∧
  encodeRsp (.fault .dimensionMismatch) = 0x080#9 ∧
  encodeRsp (.fault .outOfRange) = 0x100#9 ∧
  encodeRsp (.fault .illegalOp) = 0x180#9 ∧
  (∀ (cfg : Cfg) (w : CmdWord) (rnd : Draw) (k : Fault),
    decodeCmd w = .error k → respond cfg w rnd = encodeRsp (.fault k)) ∧
  (∀ (cfg : Cfg) (w : CmdWord) (rnd : Draw) (c : Cmd),
    decodeCmd w = .ok c → respond cfg w rnd = encodeRsp (evalCmd cfg rnd.toNat c))

/-- The invariant every step establishes, from any state: the wires are settled (R50) and the response is legal, `y` zero
under a fault (R70, R148). -/
def Obligations.StepSettlesPorts : Prop :=
  ∀ s t : State, step s = .next t → t.Settled ∧ t.LegalResponse

/-- Evaluating the same inputs again changes nothing, and only a settled state has that property (R49: idempotent). -/
def Obligations.SettledIsFixedPoint : Prop := ∀ s : State, step s = .next s ↔ s.Settled

/-- Commands are independent (R48): from any ports, the responses to a list of commands are the function of R50 of each,
and issuing them in another order gives the same (command, response) pairs. -/
def Obligations.CommandsIndependent : Prop :=
  (∀ (cs : List (CmdWord × Draw)) (s : State),
    issueAll cs s = some (cs.map fun c => respond netlist c.1 c.2)) ∧
  (∀ (cs ds : List (CmdWord × Draw)) (s s' : State), cs.Perm ds →
    ∃ rs qs : List RspWord, issueAll cs s = some rs ∧ issueAll ds s' = some qs ∧ (cs.zip rs).Perm (ds.zip qs))

/-- Nothing an earlier command left on the ports, a fault among it, reaches the answer to the next one (R49, R149). -/
def Obligations.NoLastingEffect : Prop :=
  ∀ (s t : State) (w : CmdWord) (r : Draw), step (t.drive w r) = step (s.drive w r)

/-- Fields an operation does not read do not reach its response (R65). -/
def Obligations.UnreadFieldsIgnored : Prop :=
  ∀ s s' t t' : State, step s = .next t → step s' = .next t' → opField s.cmd = opField s'.cmd →
    ((opField s.cmd).toNat < 4 → aField s.cmd = aField s'.cmd → t.rsp = t'.rsp) ∧
    (opField s.cmd = 4#3 → s.rnd = s'.rnd → t.rsp = t'.rsp) ∧
    (opField s.cmd ≠ 4#3 → s.cmd = s'.cmd → t.rsp = t'.rsp)

/-- The `fault` field of the response, for every word and draw: which operation raises which kind exactly when (R141,
R142), and nothing else is recorded about a fault. -/
def Obligations.FaultCodeExactlyWhen : Prop :=
  ∀ s t : State, step s = .next t →
    rspFault t.rsp =
      (if opField s.cmd = 7#3 then 3#2
       else if opField s.cmd = 0#3 ∧ (aField s.cmd).extractLsb' 4 3 ≠ 0#3 then 1#2
       else if opField s.cmd = 6#3 ∧ (bField s.cmd).extractLsb' 3 4 ≠ 0#4 then 1#2
       else if opField s.cmd = 3#3 ∧ 7 ≤ (aField s.cmd).toNat then 2#2
       else if opField s.cmd = 4#3 ∧ 7 ≤ s.rnd.toNat then 2#2
       else 0#2) ∧
    (rspFault t.rsp ≠ 0#2 → t = { s with rsp := rspFault t.rsp ++ 0#7 })

/-- The counts of R143 over all 2^17 command words, whatever the draw, and no other word faults but those of RANDERR with
a draw outside the contract. -/
def Obligations.FaultCounts : Prop :=
  (∀ op : BitVec 3, Nat.card { w : CmdWord // opField w = op } = 2 ^ 14) ∧
  ∀ rnd : Draw,
    Nat.card { w : CmdWord // opField w = 7#3 ∧ respond netlist w rnd = 0x180#9 } = 2 ^ 14 ∧
    Nat.card { w : CmdWord // opField w = 0#3 ∧ respond netlist w rnd = 0x080#9 } = 14336 ∧
    Nat.card { w : CmdWord // opField w = 6#3 ∧ respond netlist w rnd = 0x080#9 } = 15360 ∧
    Nat.card { w : CmdWord // opField w = 3#3 ∧ respond netlist w rnd = 0x100#9 } = 15488 ∧
    (∀ w : CmdWord, opField w = 4#3 → (respond netlist w rnd = 0x100#9 ↔ 7 ≤ rnd.toNat)) ∧
    (∀ w : CmdWord, rspFault (respond netlist w rnd) ≠ 0#2 →
      (opField w = 7#3 ∧ respond netlist w rnd = 0x180#9) ∨ (opField w = 0#3 ∧ respond netlist w rnd = 0x080#9) ∨
      (opField w = 6#3 ∧ respond netlist w rnd = 0x080#9) ∨ (opField w = 3#3 ∧ respond netlist w rnd = 0x100#9) ∨
      (opField w = 4#3 ∧ 7 ≤ rnd.toNat))

/-! ### What each instruction answers -/

/-- ENC of a message whose checked bits are zero: the codeword of R92, element by element, and no fault. -/
def Obligations.EncAnswersCodeword : Prop :=
  ∀ (b : BitVec 7) (m : Vec 4) (s : State), ∃ t : State, exec (.enc b 0#3 m) s = .next t ∧
    t.cmd = s.cmd ∧ t.rnd = s.rnd ∧ rspFault t.rsp = 0#2 ∧
    (rspY t.rsp).getLsbD 2 = m.getLsbD 0 ∧ (rspY t.rsp).getLsbD 4 = m.getLsbD 1 ∧
    (rspY t.rsp).getLsbD 5 = m.getLsbD 2 ∧ (rspY t.rsp).getLsbD 6 = m.getLsbD 3 ∧
    (rspY t.rsp).getLsbD 0 = (m.getLsbD 0 ^^ m.getLsbD 1 ^^ m.getLsbD 3) ∧
    (rspY t.rsp).getLsbD 1 = (m.getLsbD 0 ^^ m.getLsbD 2 ^^ m.getLsbD 3) ∧
    (rspY t.rsp).getLsbD 3 = (m.getLsbD 1 ^^ m.getLsbD 2 ^^ m.getLsbD 3)

/-- ENC and COR refuse an operand that does not fit its field with `DimensionMismatch` (R64). -/
def Obligations.CheckedBitsRefused : Prop :=
  (∀ (b : BitVec 7) (z : BitVec 3) (m : Vec 4) (s : State), z ≠ 0#3 →
    exec (.enc b z m) s = .next { s with rsp := 0x080#9 }) ∧
  (∀ (c : Vec 7) (z : BitVec 4) (y : Vec 3) (s : State), z ≠ 0#4 →
    exec (.cor c z y) s = .next { s with rsp := 0x080#9 })

/-- SYN answers in `y[2:0]` the XOR, as 3-bit numbers, of the one-based indices of the ones of its operand, which is
`val` of the syndrome (R95, R42), with `y[6:3]` zero, and never faults. -/
def Obligations.SynAnswersIndexSum : Prop :=
  ∀ (b c : BitVec 7) (s : State), ∃ t : State, exec (.syn b c) s = .next t ∧
    t.cmd = s.cmd ∧ t.rnd = s.rnd ∧ rspFault t.rsp = 0#2 ∧
    (rspY t.rsp).toNat = (List.range 7).foldl (fun n j => if c.getLsbD j then n ^^^ (j + 1) else n) 0 ∧
    (rspY t.rsp).toNat = val .lsbFirst (opSyn netlist c) ∧
    (rspY t.rsp).extractLsb' 3 4 = 0#4

/-- DEC answers the message bits of any vector, codeword or not, with `y[6:4]` zero, and never faults (R100). -/
def Obligations.DecAnswersMessageBits : Prop :=
  ∀ (b c : BitVec 7) (s : State), ∃ t : State, exec (.dec b c) s = .next t ∧
    t.cmd = s.cmd ∧ t.rnd = s.rnd ∧ rspFault t.rsp = 0#2 ∧
    (rspY t.rsp).getLsbD 0 = c.getLsbD 2 ∧ (rspY t.rsp).getLsbD 1 = c.getLsbD 4 ∧
    (rspY t.rsp).getLsbD 2 = c.getLsbD 5 ∧ (rspY t.rsp).getLsbD 3 = c.getLsbD 6 ∧
    (rspY t.rsp).extractLsb' 4 3 = 0#3

/-- ERRAT answers `2^p` for a position in [0,7) and `OutOfRange` for one in [7,127] (R105). -/
def Obligations.ErratAnswersUnitVector : Prop :=
  ∀ (b p : BitVec 7) (s : State),
    (p.toNat < 7 → exec (.errat b p) s = .next { s with rsp := BitVec.ofNat 9 (2 ^ p.toNat) }) ∧
    (7 ≤ p.toNat → exec (.errat b p) s = .next { s with rsp := 0x100#9 })

/-- RANDERR answers `2^r` for a draw `r` in the environment's contract and `OutOfRange` outside it, whatever the command
word's fields hold (R108, R109). The draw is any value on the input. -/
def Obligations.RanderrAnswersDrawnVector : Prop :=
  ∀ (b a : BitVec 7) (s : State),
    (DrawInContract s.rnd → exec (.randerr b a) s = .next { s with rsp := BitVec.ofNat 9 (2 ^ s.rnd.toNat) }) ∧
    (¬ DrawInContract s.rnd → exec (.randerr b a) s = .next { s with rsp := 0x100#9 })

/-- APPLY answers the XOR of its operands, an error vector of any weight being accepted, and never faults (R110, R111). -/
def Obligations.ApplyAnswersSum : Prop :=
  ∀ (c e : Vec 7) (s : State), exec (.apply c e) s = .next { s with rsp := 0#2 ++ (c ^^^ e) }

/-- COR with its checked bits zero answers the channel vector with the one element inverted that the syndrome operand,
as an unsigned number minus one, names, and the vector itself for a zero syndrome, with no fault (R115, R42). -/
def Obligations.CorInvertsNamedElement : Prop :=
  ∀ (c : Vec 7) (y : Vec 3) (s : State), ∃ t : State, exec (.cor c 0#4 y) s = .next t ∧
    t.cmd = s.cmd ∧ t.rnd = s.rnd ∧ rspFault t.rsp = 0#2 ∧
    (y = 0#3 → rspY t.rsp = c) ∧
    (∀ i : Nat, i < 7 → (rspY t.rsp).getLsbD i = (c.getLsbD i ^^ (y.toNat == i + 1)))

/-- Code 7 answers `IllegalOp` whatever the other fields hold, and no typed command ever does (R67). -/
def Obligations.ReservedCodeIllegalOp : Prop :=
  (∀ (b a : BitVec 7) (s : State), exec (.reserved7 b a) s = .next { s with rsp := 0x180#9 }) ∧
  (∀ s : State, opField s.cmd = 7#3 → step s = .next { s with rsp := 0x180#9 }) ∧
  (∀ (cfg : Cfg) (draw : Int) (c : Cmd), evalCmd cfg draw c ≠ .fault .illegalOp)

/-- COR's `OutOfRange` cannot happen: not for any configuration at the operation level, not for any word at the ports
(R117). -/
def Obligations.CorNeverOutOfRange : Prop :=
  (∀ (cfg : Cfg) (c : Vec 7) (y : Vec 3), opCor cfg c y ≠ .error .outOfRange) ∧
  (∀ s t : State, opField s.cmd = 6#3 → step s = .next t → rspFault t.rsp ≠ 2#2)

/-- The blocks as gates compute what the instructions answer: the XOR equations of R25 and the one-hot decoder of R116,
of whose outputs at most one is 1. -/
def Obligations.GatesComputeBlocks : Prop :=
  (∀ (b : BitVec 7) (m : Vec 4) (s : State), exec (.enc b 0#3 m) s = .next { s with rsp := 0#2 ++ encGates m }) ∧
  (∀ (b c : BitVec 7) (s : State), exec (.syn b c) s = .next { s with rsp := 0#6 ++ synGates c }) ∧
  (∀ (b c : BitVec 7) (s : State), exec (.dec b c) s = .next { s with rsp := 0#5 ++ decGates c }) ∧
  (∀ (c : Vec 7) (y : Vec 3) (s : State),
    exec (.cor c 0#4 y) s = .next { s with rsp := 0#2 ++ corGates c y }) ∧
  (∀ y : Vec 3, ∀ i : Nat, i < 7 → hitGate y i = (val .lsbFirst y == i + 1)) ∧
  (∀ y : Vec 3, ∀ i : Nat, i < 7 → ∀ j : Nat, j < 7 → hitGate y i = true → hitGate y j = true → i = j)

/-- The matrices observed at the ports: unit operands give the columns of G, H and R (R26). -/
def Obligations.ColumnsObservable : Prop :=
  (∀ (b : BitVec 7) (s : State), ∀ j : Nat, j < 4 →
    exec (.enc b 0#3 (unitVec 4 j)) s = .next { s with rsp := 0#2 ++ column matG j }) ∧
  (∀ (b : BitVec 7) (s : State), ∀ j : Nat, j < 7 →
    exec (.syn b (unitVec 7 j)) s = .next { s with rsp := 0#6 ++ column matH j }) ∧
  (∀ (b : BitVec 7) (s : State), ∀ j : Nat, j < 7 →
    exec (.dec b (unitVec 7 j)) s = .next { s with rsp := 0#5 ++ column matR j })

/-! ### The arithmetic -/

/-- The parity of a sum of bits is the XOR of the bits, so the source's `A·v mod 2` and the XOR-of-ANDs are one function
(R82). -/
def Obligations.ParityIsXor : Prop :=
  (∀ (n : Nat) (t : Nat → Bool), ((List.range n).map fun i => (t i).toNat).sum % 2 = (xorSum n t).toNat) ∧
  (∀ (r c : Nat) (A : Mat r c) (v : Vec c), ∀ i : Nat, i < r →
    ((mulVec A v).getLsbD i).toNat =
      ((List.range c).map fun j => (entry A i j).toNat * (v.getLsbD j).toNat).sum % 2)

/-- Vectors add element by element (R86). -/
def Obligations.VectorSumLaws : Prop :=
  (∀ (n : Nat) (u v : Vec n), ∀ i : Nat, i < n → (vecAdd u v).getLsbD i = (u.getLsbD i ^^ v.getLsbD i)) ∧
  (∀ (n : Nat) (v : Vec n), vecAdd v 0#n = v) ∧
  (∀ (n : Nat) (v : Vec n), vecAdd v v = 0#n) ∧
  (∀ (n : Nat) (u v : Vec n), vecAdd (vecAdd u v) v = u) ∧
  (∀ v : Vec 7, ∀ p : Nat, p < 7 → ∀ i : Nat, i < 7 →
    (vecAdd v (unitVec 7 p)).getLsbD i = if i = p then !v.getLsbD i else v.getLsbD i)

/-- The matrix-vector product is linear, and a product is the sum of the columns its vector selects (R84). -/
def Obligations.MatrixProductLinear : Prop :=
  ∀ (r c : Nat) (A : Mat r c),
    (∀ u v : Vec c, mulVec A (vecAdd u v) = vecAdd (mulVec A u) (mulVec A v)) ∧
    mulVec A 0#c = 0#r ∧
    (∀ j : Nat, j < c → mulVec A (unitVec c j) = column A j) ∧
    (∀ v : Vec c, mulVec A v =
      (List.range c).foldl (fun acc j => if v.getLsbD j then vecAdd acc (column A j) else acc) 0#r)

/-- ERRAT over all integers: in [0,7) the unit vector of the position and nothing else, outside `OutOfRange`; the seven
results are distinct and are all the vectors of weight 1, which with zero make the error vectors of weight at most 1
(R106; R105 for the fault). -/
def Obligations.ErratUnitVectors : Prop :=
  (∀ p : Int, 0 ≤ p → p < 7 → ∃ e : Vec 7, opErrat p = .ok e ∧ weight e = 1 ∧
    ∀ i : Nat, e.getLsbD i = decide ((i : Int) = p)) ∧
  (∀ p : Int, p < 0 ∨ 7 ≤ p → opErrat p = .error .outOfRange) ∧
  (∀ (p q : Int) (e : Vec 7), opErrat p = .ok e → opErrat q = .ok e → p = q) ∧
  (∀ e : Vec 7, weight e = 1 → ∃ p : Int, opErrat p = .ok e) ∧
  (∀ e : Vec 7, weight e ≤ 1 ↔ e = 0#7 ∨ ∃ p : Int, opErrat p = .ok e)

/-- The operation level on untyped sequences: `DimensionMismatch` whenever a length is wrong, and the typed operation
where every length is right (R64). -/
def Obligations.SequenceLengthsChecked : Prop :=
  ∀ cfg : Cfg,
    (∀ m : List Bool, m.length ≠ 4 → seqEnc cfg m = .error .dimensionMismatch) ∧
    (∀ c : List Bool, c.length ≠ 7 →
      seqSyn cfg c = .error .dimensionMismatch ∧ seqDec cfg c = .error .dimensionMismatch) ∧
    (∀ c e : List Bool, c.length ≠ 7 ∨ e.length ≠ 7 → seqApply c e = .error .dimensionMismatch) ∧
    (∀ c y : List Bool, c.length ≠ 7 ∨ y.length ≠ 3 → seqCor cfg c y = .error .dimensionMismatch) ∧
    (∀ m : Vec 4, seqEnc cfg (listOf m) = .ok (listOf (opEnc cfg m))) ∧
    (∀ c : Vec 7, seqSyn cfg (listOf c) = .ok (listOf (opSyn cfg c)) ∧
      seqDec cfg (listOf c) = .ok (listOf (opDec cfg c))) ∧
    (∀ c e : Vec 7, seqApply (listOf c) (listOf e) = .ok (listOf (opApply c e))) ∧
    (∀ (c : Vec 7) (y : Vec 3), seqCor cfg (listOf c) (listOf y) = (opCor cfg c y).map listOf)

/-! ### The configuration -/

/-- This hardware's matrices, and those of the other syndrome order, meet `CfgOK`, and construction from the printed
rows of R22 to R24 gives them (R28). -/
def Obligations.NetlistMeetsInvariants : Prop :=
  CfgOK netlist ∧ CfgOK netlistMsb ∧
  buildCfg
    [[1, 1, 0, 1], [1, 0, 1, 1], [1, 0, 0, 0], [0, 1, 1, 1], [0, 1, 0, 0], [0, 0, 1, 0], [0, 0, 0, 1]]
    [[1, 0, 1, 0, 1, 0, 1], [0, 1, 1, 0, 0, 1, 1], [0, 0, 0, 1, 1, 1, 1]]
    [[0, 0, 1, 0, 0, 0, 0], [0, 0, 0, 0, 1, 0, 0], [0, 0, 0, 0, 0, 1, 0], [0, 0, 0, 0, 0, 0, 1]]
    .lsbFirst = some netlist

/-- Construction gives a core exactly where the dimensions are right and `CfgOK` holds, and the core has the rows it was
given (R27). That construction is a function with no result for a bad configuration is the model's reading, log entry
11. -/
def Obligations.ConstructionChecksInvariants : Prop :=
  ∀ (g h r : List (List Nat)) (o : SynOrder) (cfg : Cfg),
    buildCfg g h r o = some cfg ↔
      dimensionsOk 7 4 g = true ∧ dimensionsOk 3 7 h = true ∧ dimensionsOk 4 7 r = true ∧
      cfg = ⟨matOfRows 7 4 g, matOfRows 3 7 h, matOfRows 4 7 r, o⟩ ∧ CfgOK cfg

/-- The parity-check matrix is forced by the location invariant, in each syndrome order (R29 (a), R31). -/
def Obligations.ParityCheckForced : Prop :=
  ∀ cfg : Cfg, ErrorLocationClause cfg →
    cfg.H = (match cfg.synOrder with | .lsbFirst => matH | .msbFirst => matHMsb)

/-- Whatever G is, the valid codewords are the vectors whose set bits have one-based indices that XOR to 0 (R29 (d)); so
the codeword literal of the source is none under any configuration (R30, C1). -/
def Obligations.CodewordSetForced : Prop :=
  ∀ cfg : Cfg, CfgOK cfg →
    (∀ c : Vec 7, ValidCodeword cfg c ↔
      (List.range 7).foldl (fun n j => if c.getLsbD j then n ^^^ (j + 1) else n) 0 = 0) ∧
    ¬ ValidCodeword cfg 0x75#7

/-- The two syndrome orders differ only in the order of the syndrome's elements (R31). -/
def Obligations.SyndromeOrdersAgree : Prop :=
  ∀ (G : Mat 7 4) (R : Mat 4 7),
    (CfgOK ⟨G, matH, R, .lsbFirst⟩ ↔ CfgOK ⟨G, matHMsb, R, .msbFirst⟩) ∧
    ∀ c : Vec 7,
      (∀ k : Nat, k < 3 → (opSyn ⟨G, matHMsb, R, .msbFirst⟩ c).getLsbD k =
        (opSyn ⟨G, matH, R, .lsbFirst⟩ c).getLsbD (2 - k)) ∧
      val .msbFirst (opSyn ⟨G, matHMsb, R, .msbFirst⟩ c) = val .lsbFirst (opSyn ⟨G, matH, R, .lsbFirst⟩ c) ∧
      opFix ⟨G, matHMsb, R, .msbFirst⟩ c = opFix ⟨G, matH, R, .lsbFirst⟩ c ∧
      opRecover ⟨G, matHMsb, R, .msbFirst⟩ c = opRecover ⟨G, matH, R, .lsbFirst⟩ c

/-! ### The code, for every configuration that meets `CfgOK` -/

/-- ENC is linear and injective with 16 results, all with zero syndrome (R91). -/
def Obligations.EncoderLinearInjective : Prop :=
  ∀ cfg : Cfg, CfgOK cfg →
    (∀ m n : Vec 4, opEnc cfg (vecAdd m n) = vecAdd (opEnc cfg m) (opEnc cfg n)) ∧
    (∀ m : Vec 4, opDec cfg (opEnc cfg m) = m) ∧
    (∀ m n : Vec 4, opEnc cfg m = opEnc cfg n → m = n) ∧
    Nat.card { c : Vec 7 // ValidCodeword cfg c } = 16 ∧
    (∀ m : Vec 4, opSyn cfg (opEnc cfg m) = 0#3)

/-- Decoding an encoded message gives the message (R101). -/
def Obligations.DecodeEncodeRoundTrip : Prop :=
  ∀ cfg : Cfg, CfgOK cfg → ∀ m : Vec 4, opDec cfg (opEnc cfg m) = m

/-- What a syndrome means (R96): zero exactly for a codeword, `p + 1` for one error at `p`, and dependent on the error
pattern alone. -/
def Obligations.SyndromeMeaning : Prop :=
  ∀ cfg : Cfg, CfgOK cfg →
    (∀ c : Vec 7, opSyn cfg c = 0#3 ↔ ValidCodeword cfg c) ∧
    (∀ x : Vec 7, ValidCodeword cfg x → ∀ p : Nat, p < 7 →
      opSyn cfg (vecAdd x (unitVec 7 p)) = column cfg.H p ∧
      val cfg.synOrder (opSyn cfg (vecAdd x (unitVec 7 p))) = p + 1) ∧
    (∀ x e : Vec 7, ValidCodeword cfg x → opSyn cfg (vecAdd x e) = opSyn cfg e)

/-- SYN is onto, each syndrome is shared by exactly 16 vectors, and every vector is a codeword or exactly one bit away
from exactly one codeword (R97). -/
def Obligations.SyndromeClasses : Prop :=
  ∀ cfg : Cfg, CfgOK cfg →
    (∀ y : Vec 3, Nat.card { c : Vec 7 // opSyn cfg c = y } = 16) ∧
    (∀ c : Vec 7, ∀ p : Nat, p < 7 → (val cfg.synOrder (opSyn cfg c) = p + 1 ↔
      ∃ x : Vec 7, ValidCodeword cfg x ∧ c = vecAdd x (unitVec 7 p))) ∧
    (∀ c : Vec 7, ¬ ValidCodeword cfg c → ∃! x : Vec 7, ValidCodeword cfg x ∧ weight (vecAdd c x) = 1)

/-- P5, the location property (R127), and the seven syndromes of this hardware. -/
def Obligations.SyndromeLocatesError : Prop :=
  (∀ cfg : Cfg, CfgOK cfg → ∀ m : Vec 4, ∀ p : Nat, p < 7 → ∃ ch : Vec 7, opFlip (opEnc cfg m) p = .ok ch ∧
    (val cfg.synOrder (opSyn cfg ch) : Int) - 1 = p ∧
    ∀ n : Vec 4, ∃ ch' : Vec 7, opFlip (opEnc cfg n) p = .ok ch' ∧ opSyn cfg ch' = opSyn cfg ch) ∧
  (∀ m : Vec 4, ∀ p : Nat, p < 7 → ∃ ch : Vec 7, opFlip (opEnc netlist m) p = .ok ch ∧
    some (opSyn netlist ch) = [1#3, 2#3, 3#3, 4#3, 5#3, 6#3, 7#3][p]?)

/-- P2, single-error recovery (R126): for every message and every position, correcting and decoding the disturbed
codeword gives the message back. -/
def Obligations.SingleErrorRecovered : Prop :=
  ∀ cfg : Cfg, CfgOK cfg → ∀ m : Vec 4, ∀ p : Nat, p < 7 → ∃ ch u : Vec 7,
    opFlip (opEnc cfg m) p = .ok ch ∧ opCor cfg ch (opSyn cfg ch) = .ok u ∧ opDec cfg u = m

/-- The no-error journey, and recovery from each of the eight error vectors of weight at most 1 (R128). -/
def Obligations.NoErrorJourney : Prop :=
  ∀ cfg : Cfg, CfgOK cfg → ∀ m : Vec 4,
    opSyn cfg (opEnc cfg m) = 0#3 ∧ opCor cfg (opEnc cfg m) 0#3 = .ok (opEnc cfg m) ∧
    opDec cfg (opEnc cfg m) = m ∧ opApply (opEnc cfg m) 0#7 = opEnc cfg m ∧
    opRecover cfg (opEnc cfg m) = .ok m ∧
    ∀ e : Vec 7, weight e ≤ 1 → opRecover cfg (opApply (opEnc cfg m) e) = .ok m

/-- The corrector used with the vector's own syndrome (R119). -/
def Obligations.OwnSyndromeCorrection : Prop :=
  ∀ cfg : Cfg, CfgOK cfg →
    (∀ c : Vec 7, opSyn cfg c = 0#3 → opFix cfg c = .ok c) ∧
    (∀ c : Vec 7, ∃ u : Vec 7, opFix cfg c = .ok u ∧ ValidCodeword cfg u ∧ opSyn cfg u = 0#3 ∧
      opFix cfg u = .ok u ∧ weight (vecAdd u c) ≤ 1) ∧
    (∀ x : Vec 7, ValidCodeword cfg x → ∀ p : Nat, p < 7 → opFix cfg (vecAdd x (unitVec 7 p)) = .ok x)

/-- COR believes the syndrome it is given (R118): it inverts the bit any nonzero syndrome names, so it turns a valid
codeword into an invalid vector. -/
def Obligations.ForeignSyndromeBelieved : Prop :=
  (∀ (cfg : Cfg) (c : Vec 7) (y : Vec 3), val cfg.synOrder y ≠ 0 →
    opCor cfg c y = .ok (vecAdd c (unitVec 7 (val cfg.synOrder y - 1)))) ∧
  (∀ cfg : Cfg, CfgOK cfg → ∀ (x u : Vec 7) (y : Vec 3), ValidCodeword cfg x → val cfg.synOrder y ≠ 0 →
    opCor cfg x y = .ok u → ¬ ValidCodeword cfg u) ∧
  opCor netlist 0b1100110#7 0b100#3 = .ok 0b1101110#7

/-- The minimum distance of the code is 3 (R130). -/
def Obligations.MinimumDistanceThree : Prop :=
  ∀ cfg : Cfg, CfgOK cfg →
    (∀ x y : Vec 7, ValidCodeword cfg x → ValidCodeword cfg y → x ≠ y → 3 ≤ weight (vecAdd x y)) ∧
    ValidCodeword cfg 0x00#7 ∧ ValidCodeword cfg 0x07#7 ∧ weight (vecAdd 0x00#7 0x07#7) = 3

/-- Two errors are miscorrected, silently and always (R134). -/
def Obligations.DoubleErrorsMiscorrected : Prop :=
  ∀ cfg : Cfg, CfgOK cfg → ∀ m : Vec 4, ∀ p : Nat, p < 7 → ∀ q : Nat, q < 7 → p ≠ q →
    ∃ r < 7, r + 1 = (p + 1) ^^^ (q + 1) ∧ r ≠ p ∧ r ≠ q ∧
      opSyn cfg (vecAdd (vecAdd (opEnc cfg m) (unitVec 7 p)) (unitVec 7 q)) ≠ 0#3 ∧
      opSyn cfg (vecAdd (vecAdd (opEnc cfg m) (unitVec 7 p)) (unitVec 7 q)) = column cfg.H r ∧
      ∃ u : Vec 7, opFix cfg (vecAdd (vecAdd (opEnc cfg m) (unitVec 7 p)) (unitVec 7 q)) = .ok u ∧
        u = vecAdd (vecAdd (vecAdd (opEnc cfg m) (unitVec 7 p)) (unitVec 7 q)) (unitVec 7 r) ∧
        ValidCodeword cfg u ∧ weight (vecAdd u (opEnc cfg m)) = 3 ∧ opDec cfg u ≠ m

/-- Recovery always answers a message with no fault, and the right one exactly for error patterns of weight 0 or 1; a
pattern that is itself a nonzero codeword passes unseen (R135). -/
def Obligations.HeavyErrorsUnseen : Prop :=
  ∀ cfg : Cfg, CfgOK cfg → ∀ (m : Vec 4) (e : Vec 7),
    (∃ n : Vec 4, opRecover cfg (opApply (opEnc cfg m) e) = .ok n ∧ (n = m ↔ weight e ≤ 1)) ∧
    (ValidCodeword cfg e → e ≠ 0#7 → ValidCodeword cfg (opApply (opEnc cfg m) e) ∧
      opSyn cfg (opApply (opEnc cfg m) e) = 0#3 ∧
      opFix cfg (opApply (opEnc cfg m) e) = .ok (opApply (opEnc cfg m) e) ∧
      opDec cfg (opApply (opEnc cfg m) e) ≠ m) ∧
    (3 ≤ weight e → ¬ ValidCodeword cfg e → ∃ u : Vec 7,
      opFix cfg (opApply (opEnc cfg m) e) = .ok u ∧ ValidCodeword cfg u ∧ u ≠ opEnc cfg m)

/-- DEC of an uncorrected vector: the message plus what the error leaves in it, which for this hardware's R is nothing at
positions 0, 1, 3 and one element at 2, 4, 5, 6 (R102). -/
def Obligations.UncorrectedDecode : Prop :=
  (∀ cfg : Cfg, CfgOK cfg → ∀ (m : Vec 4) (e : Vec 7),
    opDec cfg (vecAdd (opEnc cfg m) e) = vecAdd m (opDec cfg e)) ∧
  (∀ p : Nat, p < 7 → some (opDec netlist (unitVec 7 p)) = [0#4, 0#4, 1#4, 0#4, 2#4, 4#4, 8#4][p]?)

/-! ### The host beside the core -/

/-- Single-error recovery at the ports of this hardware (R126, R166): whatever was on the ports before, the six commands of the message
journey, each operand read from the `y` of an earlier response, answer without a fault, the syndrome response names the
disturbed position, and the last response is the message. -/
def Obligations.PortJourneyRecovers : Prop :=
  ∀ (s : State) (m : Vec 4) (rnd : Draw), ∀ p : Nat, p < 7 → ∃ s₁ s₂ s₃ s₄ s₅ s₆ : State,
    step (s.drive (cmdWord 0#3 0#7 (m.zeroExtend 7)) rnd) = .next s₁ ∧ s₁.FaultFree ∧
    step (s₁.drive (cmdWord 3#3 0#7 (BitVec.ofNat 7 p)) rnd) = .next s₂ ∧ s₂.FaultFree ∧
    step (s₂.drive (cmdWord 5#3 (rspY s₂.rsp) (rspY s₁.rsp)) rnd) = .next s₃ ∧ s₃.FaultFree ∧
    step (s₃.drive (cmdWord 1#3 0#7 (rspY s₃.rsp)) rnd) = .next s₄ ∧ s₄.FaultFree ∧
    step (s₄.drive (cmdWord 6#3 (rspY s₄.rsp) (rspY s₃.rsp)) rnd) = .next s₅ ∧ s₅.FaultFree ∧
    step (s₅.drive (cmdWord 2#3 0#7 (rspY s₅.rsp)) rnd) = .next s₆ ∧ s₆.FaultFree ∧
    (rspY s₄.rsp).toNat = p + 1 ∧ rspY s₅.rsp = rspY s₁.rsp ∧ rspY s₆.rsp = m.zeroExtend 7

/-- Where a host run ends (R172): a run goes past a line only where the lines before it finished, and a command whose
response has a fault ends it there with the table as it was. The form of the host's table is the model's choice, log
entry 10. -/
def Obligations.HostRunEnds : Prop :=
  (∀ (p q : List HostLine) (t u : HostTable), runHost p t = .finished u → runHost (p ++ q) t = runHost q u) ∧
  (∀ (p q : List HostLine) (t u : HostTable) (k : Fault),
    runHost p t = .faulted k u → runHost (p ++ q) t = .faulted k u) ∧
  (∀ (p : List HostLine) (t u : HostTable), runHost p t = .finished u → u.length = t.length + p.length) ∧
  (∀ (d : Nat) (op : HostOp) (rnd : Draw) (q : List HostLine) (t : HostTable) (w : CmdWord) (k : Fault),
    hostWord t op = some w → rspFault (respond netlist w rnd) = faultCode k →
      runHost (.issue d op rnd :: q) t = .faulted k t)

/-- The expansions of FLIP, FIX and RECOVER compute the sequences of operations they stand for, whether an operand is a
literal or the name of a value the host holds (R74), FLIP of a position of 7 or more ends the run at its ERRAT with
`OutOfRange`, and NOERR issues nothing (R75). The expansion reads `c` after it has named its first temporary `x`, so where
`c` is a held name it is not `x`. The form of the host's table, and that a pseudo-operation's temporaries are names its
writer gives, is the model's choice, log entry 10. -/
def Obligations.PseudoOperationsExpand : Prop :=
  (∀ (c p : HostArg) (vc vp : Vec 7) (t : HostTable) (d x : Nat),
    argValue t c = some vc → argValue t p = some vp → c ≠ .held x →
    (vp.toNat < 7 → ∃ v : Vec 7, opFlip vc vp.toNat = .ok v ∧
      runHost (flipLines d c p x) t = .finished ((d, v) :: (x, unitVec 7 vp.toNat) :: t)) ∧
    (7 ≤ vp.toNat → opFlip vc vp.toNat = .error .outOfRange ∧
      runHost (flipLines d c p x) t = .faulted .outOfRange t)) ∧
  (∀ (c : HostArg) (vc : Vec 7) (t : HostTable) (d x : Nat), argValue t c = some vc → c ≠ .held x →
    ∃ v : Vec 7, opFix netlist vc = .ok v ∧
      runHost (fixLines d c x) t = .finished ((d, v) :: (x, (opSyn netlist vc).zeroExtend 7) :: t)) ∧
  (∀ (c : HostArg) (vc : Vec 7) (t : HostTable) (d x y : Nat), argValue t c = some vc → c ≠ .held x →
    ∃ (u : Vec 7) (m : Vec 4), opFix netlist vc = .ok u ∧ opRecover netlist vc = .ok m ∧
      runHost (recoverLines d c x y) t =
        .finished ((d, m.zeroExtend 7) :: (y, u) :: (x, (opSyn netlist vc).zeroExtend 7) :: t)) ∧
  (∀ (d : Nat) (q : List HostLine) (t : HostTable), runHost (.noerr d :: q) t = runHost q ((d, 0#7) :: t))
end

