-- ==== Sys2Proof/Laws/Gf2.lean ====
section
/-!
SUPPORT. The vectors, products and operations read element by element, for proofs to cite in place of the recursions.
-/

namespace Sys2Proof.Laws

open Sys2Proof.Machine

@[simp] theorem vecOf_getLsbD (n : Nat) (f : Nat → Bool) (i : Nat) :
    (vecOf n f).getLsbD i = (decide (i < n) && f i) := by
  induction n with
  | zero => simp [vecOf]
  | succ n ih =>
    rw [vecOf, BitVec.getLsbD_cons, ih]
    rcases Nat.lt_trichotomy i n with h | rfl | h
    · have : i ≠ n := by omega
      have : i < n + 1 := by omega
      simp [*]
    · simp
    · have : i ≠ n := by omega
      have : ¬ i < n := by omega
      have : ¬ i < n + 1 := by omega
      simp [*]

@[simp] theorem vecOf_getElem (n : Nat) (f : Nat → Bool) (i : Nat) (h : i < n) : (vecOf n f)[i] = f i := by
  rw [← BitVec.getLsbD_eq_getElem, vecOf_getLsbD, decide_eq_true h, Bool.true_and]

/-- Two vectors are equal when their elements are. -/
theorem vec_ext {n : Nat} {u v : Vec n} (h : ∀ i : Nat, i < n → u.getLsbD i = v.getLsbD i) : u = v :=
  BitVec.eq_of_getLsbD_eq h

theorem mulVec_getLsbD {r c : Nat} (A : Mat r c) (v : Vec c) (i : Nat) :
    (mulVec A v).getLsbD i = (decide (i < r) && xorSum c fun j => gf2Mul (entry A i j) (v.getLsbD j)) := by
  simp [mulVec]

@[simp] theorem column_getLsbD {r c : Nat} (A : Mat r c) (j i : Nat) :
    (column A j).getLsbD i = (decide (i < r) && entry A i j) := by
  simp [column]

@[simp] theorem unitVec_getLsbD (n p i : Nat) : (unitVec n p).getLsbD i = (decide (i < n) && i == p) := by
  simp [unitVec]

@[simp] theorem column_getElem {r c : Nat} (A : Mat r c) (j i : Nat) (h : i < r) : (column A j)[i] = entry A i j :=
  vecOf_getElem r _ i h

@[simp] theorem unitVec_getElem (n p i : Nat) (h : i < n) : (unitVec n p)[i] = (i == p) := vecOf_getElem n _ i h

/-- The sum of two vectors is their bitwise XOR. -/
theorem vecAdd_eq_xor {n : Nat} (u v : Vec n) : vecAdd u v = u ^^^ v := by
  apply vec_ext
  intro i hi
  rw [vecAdd, vecOf_getLsbD, BitVec.getLsbD_xor, gf2Add, decide_eq_true hi, Bool.true_and]

theorem xorSum_congr {n : Nat} {f g : Nat → Bool} (h : ∀ i : Nat, i < n → f i = g i) : xorSum n f = xorSum n g := by
  induction n with
  | zero => rfl
  | succ n ih => rw [xorSum, xorSum, ih fun i hi => h i (by omega), h n (by omega)]

/-- The XOR of sums is the sum of the XORs. -/
theorem xorSum_xor (n : Nat) (f g : Nat → Bool) :
    xorSum n (fun i => f i ^^ g i) = (xorSum n f ^^ xorSum n g) := by
  induction n with
  | zero => rfl
  | succ n ih =>
    simp only [xorSum, gf2Add, ih]
    cases xorSum n f <;> cases xorSum n g <;> cases f n <;> cases g n <;> rfl

theorem xorSum_false (n : Nat) : xorSum n (fun _ => false) = false := by
  induction n with
  | zero => rfl
  | succ n ih => simp [xorSum, gf2Add, ih]

/-- `val` is below 8 in either order. -/
theorem val_lt (o : SynOrder) (s : Vec 3) : val o s < 8 := by
  have h0 := Bool.toNat_lt (s.getLsbD 0)
  have h1 := Bool.toNat_lt (s.getLsbD 1)
  have h2 := Bool.toNat_lt (s.getLsbD 2)
  cases o <;> simp only [val] <;> omega

/-- Under `LSB_FIRST`, `val` is the syndrome read as an unsigned number. -/
theorem val_lsbFirst (s : Vec 3) : val .lsbFirst s = s.toNat := by revert s; decide

/-- `val` tells two syndromes apart. -/
theorem val_injective (o : SynOrder) {s t : Vec 3} (h : val o s = val o t) : s = t := by
  revert s t; cases o <;> decide

/-- Everything ERRAT can do: a unit vector for a position in range, `OutOfRange` otherwise. -/
theorem opErrat_cases (p : Int) :
    (∃ n : Nat, n < 7 ∧ p = n ∧ opErrat p = .ok (unitVec 7 n)) ∨
    ((p < 0 ∨ 7 ≤ p) ∧ opErrat p = .error .outOfRange) := by
  by_cases h : p < 0 ∨ 7 ≤ p
  · exact .inr ⟨h, if_pos h⟩
  · exact .inl ⟨p.toNat, by omega, by omega, if_neg h⟩

/-- ERRAT of a position in range. -/
theorem opErrat_nat {n : Nat} (h : n < 7) : opErrat (n : Int) = .ok (unitVec 7 n) := by
  rw [opErrat, if_neg (by omega)]; rfl

end Sys2Proof.Laws
end

