-- ==== Sys2Proof/Laws/Response.lean ====
section
/-!
SUPPORT. What the shared operations on operands, responses and syndromes can do, each said once.
-/

namespace Sys2Proof.Laws

open Sys2Proof.Machine

@[simp] theorem rspFault_rspWord (f : BitVec 2) (y : Vec 7) : rspFault (rspWord f y) = f := by
  apply BitVec.eq_of_getLsbD_eq
  intro i hi
  rw [rspFault, rspWord, BitVec.getLsbD_extractLsb', BitVec.getLsbD_append]
  simp [hi]

@[simp] theorem rspY_rspWord (f : BitVec 2) (y : Vec 7) : rspY (rspWord f y) = y := by
  apply BitVec.eq_of_getLsbD_eq
  intro i hi
  rw [rspY, rspWord, BitVec.getLsbD_extractLsb', BitVec.getLsbD_append]
  simp [hi]

/-- A response word is its two fields. -/
theorem rspWord_fields (r : RspWord) : rspWord (rspFault r) (rspY r) = r := by
  apply BitVec.eq_of_getLsbD_eq
  intro i hi
  rw [rspFault, rspY, rspWord, BitVec.getLsbD_append, BitVec.getLsbD_extractLsb', BitVec.getLsbD_extractLsb']
  by_cases h : i < 7
  · simp [h]
  · simp [h, show 7 + (i - 7) = i by omega, show i - 7 < 2 by omega]

@[simp] theorem faultOfCode_faultCode (k : Fault) : faultOfCode (faultCode k) = some k := by cases k <;> rfl

/-- The message operand is taken where its checked bits are zero and refused otherwise. -/
theorem messageOperand_cases (z : BitVec 3) (m : Vec 4) :
    (z = 0#3 ∧ messageOperand z m = .ok m) ∨ (z ≠ 0#3 ∧ messageOperand z m = .error .dimensionMismatch) := by
  by_cases h : z = 0#3
  · exact .inl ⟨h, if_pos h⟩
  · exact .inr ⟨h, if_neg h⟩

/-- The syndrome operand is taken where its checked bits are zero and refused otherwise. -/
theorem syndromeOperand_cases (z : BitVec 4) (s : Vec 3) :
    (z = 0#4 ∧ syndromeOperand z s = .ok s) ∨ (z ≠ 0#4 ∧ syndromeOperand z s = .error .dimensionMismatch) := by
  by_cases h : z = 0#4
  · exact .inl ⟨h, if_pos h⟩
  · exact .inr ⟨h, if_neg h⟩

/-- COR of a syndrome that reads 0. -/
theorem opCor_zero (cfg : Cfg) (c : Vec 7) {s : Vec 3} (h : val cfg.synOrder s = 0) : opCor cfg c s = .ok c :=
  if_pos h

/-- COR of a syndrome that reads `n + 1`. -/
theorem opCor_location (cfg : Cfg) (c : Vec 7) {s : Vec 3} {n : Nat} (hn : n < 7) (h : val cfg.synOrder s = n + 1) :
    opCor cfg c s = .ok (vecAdd c (unitVec 7 n)) := by
  rw [opCor, if_neg (by omega), h, show ((n + 1 : Nat) : Int) - 1 = (n : Int) by omega, opErrat_nat hn]
  rfl

end Sys2Proof.Laws
end

