-- ==== Sys2Proof/Laws/Host.lean ====
section
/-!
SUPPORT. What the host's table and one line of a host program do (30_encoding.md R74, 70_reset_and_hazards.md R172): an
operand's value after a new name is given, and the two ways a line whose operands are held can go on.
-/

namespace Sys2Proof.Laws

open Sys2Proof.Machine

@[simp] theorem argValue_literal (t : HostTable) (v : Vec 7) : argValue t (.literal v) = some v := rfl

@[simp] theorem argValue_newest (t : HostTable) (x : Nat) (v : Vec 7) : argValue ((x, v) :: t) (.held x) = some v :=
  if_pos rfl

/-- A name given later does not change the value of an operand that is not that name. -/
theorem argValue_other {c : HostArg} {x : Nat} (h : c ≠ .held x) (t : HostTable) (v : Vec 7) :
    argValue ((x, v) :: t) c = argValue t c := by
  cases c with
  | literal _ => rfl
  | held y => exact if_neg fun e => h (congrArg HostArg.held e)

/-- A line whose response has no fault names `y` and the run goes on. -/
theorem runHost_answered {t : HostTable} {op : HostOp} {w : CmdWord} {rnd : Draw} {y : Vec 7} (hw : hostWord t op = some w)
    (hr : respond netlist w rnd = rspWord 0#2 y) (d : Nat) (q : List HostLine) :
    runHost (.issue d op rnd :: q) t = runHost q ((d, y) :: t) := by
  simp only [runHost, hw, hr, rspFault_rspWord, rspY_rspWord]
  rfl

/-- A line whose response has a fault ends the run with the table as it was. -/
theorem runHost_faulted {t : HostTable} {op : HostOp} {w : CmdWord} {rnd : Draw} {k : Fault} (hw : hostWord t op = some w)
    (hr : respond netlist w rnd = rspWord (faultCode k) 0#7) (d : Nat) (q : List HostLine) :
    runHost (.issue d op rnd :: q) t = .faulted k t := by
  simp only [runHost, hw, hr, rspFault_rspWord, faultOfCode_faultCode]

end Sys2Proof.Laws
end

