-- ==== Sys2Proof/Laws/PerInstr.lean ====
section
/-!
SUPPORT. Statements for all instructions, one lemma per constructor. `EncodeOpcode`: the word of an instruction carries
the `op` value of its row (30_encoding.md R66).
-/

namespace Sys2Proof.Laws

/-- The `op` value of an instruction's row (R66). -/
def opValue : Instr → BitVec 3
  | .enc _ _ _ => 0#3
  | .syn _ _ => 1#3
  | .dec _ _ => 2#3
  | .errat _ _ => 3#3
  | .randerr _ _ => 4#3
  | .apply _ _ => 5#3
  | .cor _ _ _ => 6#3
  | .reserved7 _ _ => 7#3

theorem opField_cmdWord (op : BitVec 3) (b a : BitVec 7) : opField (cmdWord op b a) = op := by
  apply BitVec.eq_of_getLsbD_eq
  intro i hi
  simp only [opField, cmdWord, BitVec.getLsbD_extractLsb', BitVec.getLsbD_append]
  simp [hi, show ¬ 14 + i < 7 by omega, show ¬ 14 + i - 7 < 7 by omega, show 14 + i - 7 - 7 = i by omega]

theorem bField_cmdWord (op : BitVec 3) (b a : BitVec 7) : bField (cmdWord op b a) = b := by
  apply BitVec.eq_of_getLsbD_eq
  intro i hi
  simp only [bField, cmdWord, BitVec.getLsbD_extractLsb', BitVec.getLsbD_append]
  simp [hi]

theorem aField_cmdWord (op : BitVec 3) (b a : BitVec 7) : aField (cmdWord op b a) = a := by
  apply BitVec.eq_of_getLsbD_eq
  intro i hi
  simp only [aField, cmdWord, BitVec.getLsbD_extractLsb', BitVec.getLsbD_append]
  simp [hi]

namespace EncodeOpcode

/-- The word of an instruction holds its row's `op` in bits 16 to 14. -/
def Statement (i : Instr) : Prop := opField (encode i) = opValue i

theorem enc (b : BitVec 7) (z : BitVec 3) (m : Vec 4) : Statement (.enc b z m) := opField_cmdWord _ _ _
theorem syn (b : BitVec 7) (c : Vec 7) : Statement (.syn b c) := opField_cmdWord _ _ _
theorem dec (b : BitVec 7) (c : Vec 7) : Statement (.dec b c) := opField_cmdWord _ _ _
theorem errat (b : BitVec 7) (p : BitVec 7) : Statement (.errat b p) := opField_cmdWord _ _ _
theorem randerr (b a : BitVec 7) : Statement (.randerr b a) := opField_cmdWord _ _ _
theorem apply (c e : Vec 7) : Statement (.apply c e) := opField_cmdWord _ _ _
theorem cor (c : Vec 7) (z : BitVec 4) (s : Vec 3) : Statement (.cor c z s) := opField_cmdWord _ _ _
theorem reserved7 (b a : BitVec 7) : Statement (.reserved7 b a) := opField_cmdWord _ _ _

end EncodeOpcode

end Sys2Proof.Laws
end

