-- ==== Sys2Proof/Laws/State.lean ====
section
/-!
SUPPORT. What each update of the ports leaves in each port: one lemma per field per update.
-/

namespace Sys2Proof.Laws

open Sys2Proof.Machine

@[simp] theorem reset_cmd : State.reset.cmd = 0#17 := rfl
@[simp] theorem reset_rnd : State.reset.rnd = 0#7 := rfl
@[simp] theorem reset_rsp : State.reset.rsp = 0#9 := rfl

@[simp] theorem drive_cmd (w : CmdWord) (r : Draw) (s : State) : (s.drive w r).cmd = w := rfl
@[simp] theorem drive_rnd (w : CmdWord) (r : Draw) (s : State) : (s.drive w r).rnd = r := rfl
@[simp] theorem drive_rsp (w : CmdWord) (r : Draw) (s : State) : (s.drive w r).rsp = s.rsp := rfl

@[simp] theorem answer_cmd (r : Resp) (s : State) : (s.answer r).cmd = s.cmd := rfl
@[simp] theorem answer_rnd (r : Resp) (s : State) : (s.answer r).rnd = s.rnd := rfl
@[simp] theorem answer_rsp (r : Resp) (s : State) : (s.answer r).rsp = encodeRsp r := rfl

@[simp] theorem withFetchWord_cmd (s : State) (nbits w : Nat) :
    (s.withFetchWord nbits w).cmd = BitVec.ofNat 17 (w % 2 ^ nbits) := rfl
@[simp] theorem withFetchWord_rnd (s : State) (nbits w : Nat) : (s.withFetchWord nbits w).rnd = s.rnd := rfl
@[simp] theorem withFetchWord_rsp (s : State) (nbits w : Nat) : (s.withFetchWord nbits w).rsp = s.rsp := rfl

/-- What answering a response does: a next state, the response word on `rsp`, the inputs as they were. -/
theorem answerWith_next {r : Resp} {s t : State} (h : answerWith r s = .next t) :
    t = { s with rsp := encodeRsp r } := by
  cases h; rfl

/-- What taking a fault does: a next state, the fault's code with `y` zero on `rsp`, the inputs as they were. -/
theorem takeFault_next {k : Fault} {s t : State} (h : takeFault k s = .next t) :
    t = { s with rsp := faultCode k ++ 0#7 } := by
  cases h; rfl

end Sys2Proof.Laws
end

