-- ==== Sys2Proof/Tests/Slice0.lean ====
section
/-!
SUPPORT. Tests with expected results from the spec (95_test_vectors.md, the rules' worked examples), the smoke test of
`WellFormed`, and for each statement with hypotheses a witness that something meets them.
-/

namespace Sys2Proof.Tests

open Sys2Proof.Machine

/-- Ports with a word and a draw on the inputs and all ones left over on the response wires. -/
def ports (w : CmdWord) (r : Draw) : State := ⟨w, r, 0x1FF#9⟩

/-- The response word after one step, if the step is answered. -/
def rspAfter (s : State) : Option RspWord :=
  match step s with
  | .next t => some t.rsp
  | .fault _ => none
  | .refused _ => none

/-! ### WellFormed -/

/-- One ill-formed instruction for each check of `Instr.wellFormed`, and its nearest well-formed neighbour. -/
theorem test_wellFormed_refuses :
    (Instr.enc 0#7 1#3 0#4).wellFormed = false ∧ (Instr.enc 0#7 0#3 15#4).wellFormed = true ∧
    (Instr.cor 0#7 8#4 0#3).wellFormed = false ∧ (Instr.cor 0#7 0#4 7#3).wellFormed = true ∧
    (Instr.reserved7 0#7 0#7).wellFormed = false := by decide

/-! ### Decoding: a word of every row, bit by bit from the encoding column of R66 (`op`, `b`, `a`) -/

theorem test_decode_enc : decode 0b000_0101010_010_1101#17 = .enc 0b0101010#7 0b010#3 0b1101#4 := by decide
theorem test_decode_syn : decode 0b001_1000000_1101110#17 = .syn 0b1000000#7 0b1101110#7 := by decide
theorem test_decode_dec : decode 0b010_0000001_1100110#17 = .dec 0b0000001#7 0b1100110#7 := by decide
theorem test_decode_errat : decode 0b011_0000000_1000011#17 = .errat 0b0000000#7 0b1000011#7 := by decide
theorem test_decode_randerr : decode 0b100_0101010_1010101#17 = .randerr 0b0101010#7 0b1010101#7 := by decide
theorem test_decode_apply : decode 0b101_0001000_1100110#17 = .apply 0b1100110#7 0b0001000#7 := by decide
theorem test_decode_cor : decode 0b110_1000_100_1101110#17 = .cor 0b1101110#7 0b1000#4 0b100#3 := by decide
theorem test_decode_reserved7 : decode 0b111_0000000_1100110#17 = .reserved7 0#7 0b1100110#7 := by decide

/-- `decodeTableWord` takes the low `nbits` bits and refuses what has a 1 above the 17 wires of the port. -/
theorem test_decodeTableWord :
    decodeTableWord 24 0x14466 = some (.apply 0x66#7 0x08#7) ∧ decodeTableWord 17 0x3C000 = some (.reserved7 0#7 0#7) ∧
    decodeTableWord 24 0x20000 = none := by decide

/-! ### One step: responses of 95_test_vectors.md -/

/-- S1 step 1 with the unread field set (41_encode.md, corner cases); T1 row `0x0B`. -/
theorem test_enc :
    rspAfter (ports 0x03F8D#17 9#7) = some 0x066#9 ∧ rspAfter (ports 0x0000B#17 0#7) = some 0x055#9 := by decide
/-- T1 corner cases: the smallest refused operand, and `a[6]` alone. -/
theorem test_enc_refused :
    rspAfter (ports 0x00010#17 0#7) = some 0x080#9 ∧ rspAfter (ports 0x00040#17 0#7) = some 0x080#9 := by decide
/-- S1 step 4, and S1b: the source's wrong literal has syndrome 6. -/
theorem test_syn :
    rspAfter (ports 0x0406E#17 0#7) = some 0x004#9 ∧ rspAfter (ports 0x04075#17 0#7) = some 0x006#9 := by decide
/-- S1 step 6, and program 2 line 4: decoding without correcting. -/
theorem test_dec :
    rspAfter (ports 0x08066#17 0#7) = some 0x00D#9 ∧ rspAfter (ports 0x08062#17 0#7) = some 0x00C#9 := by decide
/-- T4: positions 6 and 7, where the range ends. -/
theorem test_errat :
    rspAfter (ports 0x0C006#17 0#7) = some 0x040#9 ∧ rspAfter (ports 0x0C007#17 0#7) = some 0x100#9 := by decide
/-- T4: the draw, whatever `a` and `b` hold, and a draw outside the contract. -/
theorem test_randerr :
    rspAfter (ports 0x11555#17 5#7) = some 0x020#9 ∧ rspAfter (ports 0x10000#17 0x7F#7) = some 0x100#9 := by decide
/-- T5: one error, and the weight-7 error vector. -/
theorem test_apply :
    rspAfter (ports 0x14466#17 0#7) = some 0x06E#9 ∧ rspAfter (ports 0x17FE6#17 0#7) = some 0x019#9 := by decide
/-- T6: `val` 7 inverts element 6, a zero syndrome inverts nothing. -/
theorem test_cor :
    rspAfter (ports 0x183E6#17 0#7) = some 0x026#9 ∧ rspAfter (ports 0x1806E#17 0#7) = some 0x06E#9 := by decide
/-- T6: the lowest and the highest checked bit. -/
theorem test_cor_refused :
    rspAfter (ports 0x1846E#17 0#7) = some 0x080#9 ∧ rspAfter (ports 0x1A26E#17 0#7) = some 0x080#9 := by decide
/-- T7. -/
theorem test_reserved7 :
    rspAfter (ports 0x1C000#17 0#7) = some 0x180#9 ∧ rspAfter (ports 0x1FFFF#17 9#7) = some 0x180#9 := by decide

/-- The fetch word runs as the next step, from reset. -/
theorem test_withFetchWord : rspAfter (State.reset.withFetchWord 24 0x1826E) = some 0x066#9 := by decide

/-! ### The operation level, the gates and the host -/

/-- The worked examples of 41 to 45 at the operation level, and T8 row (0, 1). -/
theorem test_operations :
    opEnc netlist 0b1101#4 = 0b1100110#7 ∧ opSyn netlist 0b1101110#7 = 0b100#3 ∧ opDec netlist 0b1100110#7 = 0b1101#4 ∧
    opErrat 3 = .ok 0b0001000#7 ∧ opErrat (-1) = .error .outOfRange ∧
    opFix netlist 0x65#7 = .ok 0x61#7 ∧ opRecover netlist 0x65#7 = .ok 0xC#4 := by decide

/-- R31: under `MSB_FIRST` the syndrome of the same vector is listed the other way round and reads the same. -/
theorem test_msbFirst :
    opSyn netlistMsb 0b1101110#7 = 0b001#3 ∧ val .msbFirst 0b001#3 = 4 ∧ opFix netlistMsb 0x6E#7 = .ok 0x66#7 := by decide

/-- R116 and R25 on the worked examples. -/
theorem test_gates :
    encGates 0xD#4 = 0x66#7 ∧ synGates 0x6E#7 = 4#3 ∧ decGates 0x66#7 = 0xD#4 ∧ corGates 0x6E#7 4#3 = 0x66#7 := by decide

/-- The untyped operation level: the example of ENC in list form, and a sequence one element too long (R64). -/
theorem test_sequences :
    seqEnc netlist [true, false, true, true] = .ok [false, true, true, false, false, true, true] ∧
    seqEnc netlist [true, false, true, true, false] = .error .dimensionMismatch := by decide

/-- A host line that faults ends the run before its name is given a value (program 4, line 2). -/
theorem test_host_fault : runHost [.issue 1 (.errat (.literal 7#7)) 0#7] [] = .faulted .outOfRange [] := by decide

/-- Construction refuses the source's own literal as a column of G, and a row too short (R27). -/
theorem test_build_refuses :
    buildCfg [[1, 1, 0, 1], [0, 0, 1, 1], [1, 0, 0, 0], [0, 1, 1, 1], [1, 1, 0, 0], [1, 0, 1, 0], [1, 0, 0, 1]]
      [[1, 0, 1, 0, 1, 0, 1], [0, 1, 1, 0, 0, 1, 1], [0, 0, 0, 1, 1, 1, 1]]
      [[0, 0, 1, 0, 0, 0, 0], [0, 0, 0, 0, 1, 0, 0], [0, 0, 0, 0, 0, 1, 0], [0, 0, 0, 0, 0, 0, 1]] .lsbFirst = none ∧
    buildCfg [[1, 1, 0]] [] [] .lsbFirst = none := by decide

/-! ### Witnesses: what meets the hypotheses of each statement that has some -/

theorem witness_StepRunsDecodedInstr :
    decode (ports 0x14466#17 0#7).cmd = .apply 0x66#7 0x08#7 ∧ decodeTableWord 24 0x1FFFF = some (.reserved7 0x7F#7 0x7F#7) := by
  decide

/-- `exec` answers a next state: one instruction of each row (also `StepSettlesPorts`, whose hypothesis is the second). -/
theorem witness_InstructionFrame :
    (∃ t, exec (.enc 1#7 0#3 5#4) (ports 0#17 0#7) = .next t) ∧ (∃ t, exec (.enc 1#7 7#3 5#4) (ports 0#17 0#7) = .next t) ∧
    (∃ t, exec (.syn 1#7 5#7) (ports 0#17 0#7) = .next t) ∧ (∃ t, exec (.dec 1#7 5#7) (ports 0#17 0#7) = .next t) ∧
    (∃ t, exec (.errat 1#7 6#7) (ports 0#17 0#7) = .next t) ∧ (∃ t, exec (.randerr 1#7 5#7) (ports 0#17 6#7) = .next t) ∧
    (∃ t, exec (.apply 1#7 5#7) (ports 0#17 0#7) = .next t) ∧ (∃ t, exec (.cor 1#7 0#4 7#3) (ports 0#17 0#7) = .next t) ∧
    (∃ t, exec (.reserved7 1#7 5#7) (ports 0#17 0#7) = .next t) :=
  ⟨⟨_, rfl⟩, ⟨_, rfl⟩, ⟨_, rfl⟩, ⟨_, rfl⟩, ⟨_, rfl⟩, ⟨_, rfl⟩, ⟨_, rfl⟩, ⟨_, rfl⟩, ⟨_, rfl⟩⟩

theorem witness_StepSettlesPorts : ∃ t, step (ports 0x1C000#17 3#7) = .next t ∧ t.rsp = 0x180#9 := ⟨_, rfl, by decide⟩

theorem witness_StepComputesResponseFunction : opField 0x0C003#17 ≠ 4#3 := by decide

theorem witness_ResponseEncoding :
    decodeCmd 0x1C000#17 = .error .illegalOp ∧ decodeCmd 0x00010#17 = .error .dimensionMismatch ∧
    decodeCmd 0x0C007#17 = .ok (.errat 7) := by decide

theorem witness_CommandsIndependent :
    [(0x0C003#17, 0#7), (0x10000#17, 7#7)].Perm [(0x10000#17, 7#7), (0x0C003#17, 0#7)] := by decide

/-- Two states for each clause: `op` 0 and `op` 3 at its ends, RANDERR, and a word that is not RANDERR's. -/
theorem witness_UnreadFieldsIgnored :
    (opField (ports 0x0000D#17 0#7).cmd = opField (ports 0x03F8D#17 9#7).cmd ∧
      (opField 0x0000D#17).toNat < 4 ∧ aField 0x0000D#17 = aField 0x03F8D#17) ∧
    (opField 0x0C003#17 = opField 0x0C083#17 ∧ (opField 0x0C003#17).toNat < 4 ∧ aField 0x0C003#17 = aField 0x0C083#17) ∧
    (opField 0x10000#17 = opField 0x11555#17 ∧ opField 0x10000#17 = 4#3) ∧
    opField 0x1C000#17 ≠ 4#3 ∧
    (∃ t, step (ports 0x0000D#17 0#7) = .next t) ∧ ∃ t, step (ports 0x03F8D#17 9#7) = .next t :=
  ⟨by decide, by decide, by decide, by decide, ⟨_, rfl⟩, ⟨_, rfl⟩⟩

/-- Every branch of the fault table is reached, at the ends of the ranges (R141, T1, T4, T6, T7). -/
theorem witness_FaultCodeExactlyWhen :
    rspAfter (ports 0x1C000#17 0#7) = some 0x180#9 ∧ rspAfter (ports 0x0007F#17 0#7) = some 0x080#9 ∧
    rspAfter (ports 0x1BFEE#17 0#7) = some 0x080#9 ∧ rspAfter (ports 0x0C007#17 0#7) = some 0x100#9 ∧
    rspAfter (ports 0x0C07F#17 0#7) = some 0x100#9 ∧ rspAfter (ports 0x10000#17 7#7) = some 0x100#9 ∧
    rspAfter (ports 0x10000#17 6#7) = some 0x040#9 ∧ rspAfter (ports 0x0C000#17 127#7) = some 0x001#9 := by decide

theorem witness_FaultCounts :
    opField 0x10000#17 = 4#3 ∧ (7 : Nat) ≤ (7#7).toNat ∧ ¬ 7 ≤ (6#7).toNat ∧
    rspFault (respond netlist 0x10000#17 7#7) ≠ 0#2 ∧ rspFault (respond netlist 0x1FFFF#17 0#7) ≠ 0#2 := by decide

theorem witness_CheckedBitsRefused : (1#3 ≠ 0#3 ∧ 4#3 ≠ 0#3) ∧ 1#4 ≠ 0#4 ∧ 8#4 ≠ 0#4 := by decide

theorem witness_ErratAnswersUnitVector :
    (0#7).toNat < 7 ∧ (6#7).toNat < 7 ∧ 7 ≤ (7#7).toNat ∧ 7 ≤ (127#7).toNat := by decide

theorem witness_RanderrAnswersDrawnVector :
    DrawInContract (ports 0#17 0#7).rnd ∧ DrawInContract (ports 0#17 6#7).rnd ∧ ¬ DrawInContract (ports 0#17 7#7).rnd := by
  unfold DrawInContract; decide

theorem witness_CorInvertsNamedElement : (0#3 = 0#3) ∧ (0 : Nat) < 7 ∧ (6 : Nat) < 7 ∧ (7#3).toNat = 6 + 1 := by decide

theorem witness_ReservedCodeIllegalOp : opField (ports 0x1C000#17 0#7).cmd = 7#3 ∧ opField 0x1FFFF#17 = 7#3 := by decide

theorem witness_CorNeverOutOfRange :
    (∃ t, step (ports 0x183FF#17 0#7) = .next t) ∧ opField (ports 0x183FF#17 0#7).cmd = 6#3 := ⟨⟨_, rfl⟩, by decide⟩

theorem witness_GatesComputeBlocks : hitGate 1#3 0 = true ∧ hitGate 7#3 6 = true ∧ hitGate 0#3 0 = false := by decide

/-- Bounds on indices are met at both ends (`ColumnsObservable`, `MatrixProductLinear`, `VectorSumLaws`, `ParityIsXor`). -/
theorem witness_indices :
    (0 : Nat) < 4 ∧ (3 : Nat) < 4 ∧ (0 : Nat) < 7 ∧ (6 : Nat) < 7 ∧ column matG 3 = 0x4B#7 ∧ column matH 6 = 7#3 ∧
    column matR 0 = 0#4 := by decide

/-- Positions at both ends of the range and just outside it, and a vector of weight 1. -/
theorem witness_ErratUnitVectors :
    opErrat 0 = .ok 0x01#7 ∧ opErrat 6 = .ok 0x40#7 ∧ opErrat 7 = .error .outOfRange ∧ opErrat (-1) = .error .outOfRange ∧
    weight 0x40#7 = 1 ∧ weight 0#7 ≤ 1 := by decide

theorem witness_SequenceLengthsChecked :
    [true].length ≠ 4 ∧ [true, true, true, true, true].length ≠ 4 ∧ ([] : List Bool).length ≠ 7 ∧
    [true, true, true, true].length ≠ 3 := by decide

theorem witness_ConstructionChecksInvariants :
    ∃ g h r, buildCfg g h r .lsbFirst = some netlist :=
  ⟨[[1, 1, 0, 1], [1, 0, 1, 1], [1, 0, 0, 0], [0, 1, 1, 1], [0, 1, 0, 0], [0, 0, 1, 0], [0, 0, 0, 1]],
    [[1, 0, 1, 0, 1, 0, 1], [0, 1, 1, 0, 0, 1, 1], [0, 0, 0, 1, 1, 1, 1]],
    [[0, 0, 1, 0, 0, 0, 0], [0, 0, 0, 0, 1, 0, 0], [0, 0, 0, 0, 0, 1, 0], [0, 0, 0, 0, 0, 0, 1]], by decide⟩

/-- Both syndrome orders have a configuration that meets `CfgOK`: the premise of every statement about the code, and of
`ParityCheckForced`. -/
theorem witness_CfgOK : CfgOK netlist ∧ CfgOK netlistMsb ∧ netlist ≠ netlistMsb := by decide

/-- A configuration that meets `CfgOK` with another G and another R: the columns of G are exchanged. -/
theorem witness_CfgOK_other :
    CfgOK ⟨matOfRows 7 4 [[1, 0, 1, 1], [1, 1, 0, 1], [0, 0, 0, 1], [1, 1, 1, 0], [0, 0, 1, 0], [0, 1, 0, 0], [1, 0, 0, 0]],
      matH, matOfRows 4 7 [[0, 0, 0, 0, 0, 0, 1], [0, 0, 0, 0, 0, 1, 0], [0, 0, 0, 0, 1, 0, 0], [0, 0, 1, 0, 0, 0, 0]],
      .lsbFirst⟩ := by decide

/-- A valid codeword, a position, and two different positions (`SyndromeMeaning`, `SyndromeClasses`,
`SyndromeLocatesError`, `SingleErrorRecovered`, `OwnSyndromeCorrection`, `DoubleErrorsMiscorrected`). -/
theorem witness_codewords :
    ValidCodeword netlist 0x66#7 ∧ ValidCodeword netlist 0x00#7 ∧ (0x66#7 : Vec 7) ≠ 0x00#7 ∧ (0 : Nat) < 7 ∧
    (6 : Nat) < 7 ∧ (0 : Nat) ≠ 6 ∧ opSyn netlist 0x66#7 = 0#3 :=
  ⟨⟨0xD#4, by decide⟩, ⟨0#4, by decide⟩, by decide⟩

/-- A vector that is no codeword: its syndrome is not zero, and codewords have zero syndrome. -/
theorem witness_SyndromeClasses :
    ¬ ValidCodeword netlist 0x67#7 ∧ val .lsbFirst (opSyn netlist 0x67#7) = 0 + 1 ∧
    val .lsbFirst (opSyn netlist 0x26#7) = 6 + 1 := by decide

theorem witness_NoErrorJourney : weight 0#7 ≤ 1 ∧ weight 0x40#7 ≤ 1 := by decide

theorem witness_ForeignSyndromeBelieved :
    val netlist.synOrder 1#3 ≠ 0 ∧ val netlist.synOrder 7#3 ≠ 0 ∧ opCor netlist 0x66#7 7#3 = .ok 0x26#7 ∧
    ValidCodeword netlist 0x66#7 := ⟨by decide, by decide, by decide, 0xD#4, by decide⟩

/-- An error pattern that is a nonzero codeword, and one of weight 3 that is none. -/
theorem witness_HeavyErrorsUnseen :
    ValidCodeword netlist 0x07#7 ∧ (0x07#7 : Vec 7) ≠ 0#7 ∧ 3 ≤ weight 0x0B#7 ∧ ¬ ValidCodeword netlist 0x0B#7 :=
  ⟨⟨1#4, by decide⟩, by decide, by decide, by decide⟩

/-- A run that finishes, a run that faults, and a line whose response has each fault code a host line can meet. -/
theorem witness_HostRunEnds :
    runHost [.noerr 0] [] = .finished [(0, 0#7)] ∧
    runHost [.issue 1 (.errat (.literal 7#7)) 0#7] [] = .faulted .outOfRange [] ∧
    hostWord [] (.errat (.literal 7#7)) = some 0x0C007#17 ∧
    rspFault (respond netlist 0x0C007#17 0#7) = faultCode .outOfRange ∧
    rspFault (respond netlist 0x00010#17 0#7) = faultCode .dimensionMismatch ∧
    hostWord [] (.syn (.held 3)) = none := by decide

/-- The names of the spec's Program 2 (95_test_vectors.md) in the table after its first line: `x` is 1, `t` is 2, the
held position 3 is a name too. A literal and a held operand, neither the temporary; positions at 0, 6, 7 and 127. -/
theorem witness_PseudoOperationsExpand :
    argValue [(1, 0x66#7)] (.held 1) = some 0x66#7 ∧ HostArg.held 1 ≠ .held 2 ∧
    argValue [(1, 0x66#7)] (.literal 2#7) = some 2#7 ∧ HostArg.literal 2#7 ≠ .held 2 ∧
    argValue [(1, 0x66#7), (3, 6#7)] (.held 3) = some 6#7 ∧
    (0#7).toNat < 7 ∧ (6#7).toNat < 7 ∧ 7 ≤ (7#7).toNat ∧ 7 ≤ (127#7).toNat := by decide

/-- Program 2, `FLIP ch, x, 2` on a held `x`: its lines 2 and 3. -/
theorem test_host_flip_held :
    runHost (flipLines 4 (.held 1) (.literal 2#7) 2) [(1, 0x66#7)] = .finished [(4, 0x62#7), (2, 0x04#7), (1, 0x66#7)] := by
  decide

/-- Program 2, `RECOVER good, ch` on a held `ch`: its lines 5 to 7. -/
theorem test_host_recover_held :
    runHost (recoverLines 7 (.held 4) 5 6) [(4, 0x62#7)] =
      .finished [(7, 0x0D#7), (6, 0x66#7), (5, 0x03#7), (4, 0x62#7)] := by decide

theorem witness_PortJourneyRecovers : (0 : Nat) < 7 ∧ (6 : Nat) < 7 := by decide

end Sys2Proof.Tests
end

section
/-!
PROOFS. The matrix products, read one XOR gate at a time, and the corrector's one-hot decoder; from them, what ENC, SYN,
DEC and COR answer in terms of the gates (10_state.md R25, 45_correct.md R116).
-/

namespace Sys2Proof.Proofs

open Sys2Proof.Machine Sys2Proof.Laws

/-! ### What the four instructions answer, in terms of the typed operations -/

/-- A 3-bit result on the response wires: no fault, and zeros above the result (R72). -/
theorem encodeRsp_okVec3 (v : Vec 3) : encodeRsp (.okVec3 v) = 0#6 ++ v := by
  rw [encodeRsp, rspWord, BitVec.zeroExtend, BitVec.setWidth_eq_append (by decide)]
  exact (BitVec.append_assoc (x₁ := 0#2) (x₂ := 0#4) (x₃ := v)).symm

/-- A 4-bit result on the response wires: no fault, and zeros above the result (R72). -/
theorem encodeRsp_okVec4 (v : Vec 4) : encodeRsp (.okVec4 v) = 0#5 ++ v := by
  rw [encodeRsp, rspWord, BitVec.zeroExtend, BitVec.setWidth_eq_append (by decide)]
  exact (BitVec.append_assoc (x₁ := 0#2) (x₂ := 0#3) (x₃ := v)).symm

theorem exec_enc (b : BitVec 7) (m : Vec 4) (s : State) :
    exec (.enc b 0#3 m) s = .next { s with rsp := 0#2 ++ opEnc netlist m } := rfl

theorem exec_syn (b : BitVec 7) (c : Vec 7) (s : State) :
    exec (.syn b c) s = .next { s with rsp := 0#6 ++ opSyn netlist c } := by
  rw [← encodeRsp_okVec3]; rfl

theorem exec_dec (b : BitVec 7) (c : Vec 7) (s : State) :
    exec (.dec b c) s = .next { s with rsp := 0#5 ++ opDec netlist c } := by
  rw [← encodeRsp_okVec4]; rfl

/-- COR where the operation gives a vector. -/
theorem exec_cor_of_ok {c v : Vec 7} {y : Vec 3} (h : opCor netlist c y = .ok v) (s : State) :
    exec (.cor c 0#4 y) s = .next { s with rsp := 0#2 ++ v } := by
  have hy : syndromeOperand 0#4 y = .ok y := rfl
  simp only [exec, execCor, hy, h]
  rfl

/-! ### The XOR gates of R25 -/

/-- Bit `j` of a row is 1 where its list form holds a 1. -/
theorem rowOf_getElem (c : Nat) (bits : List Nat) (j : Nat) (h : j < c) :
    (rowOf c bits)[j] = (bits[j]? == some 1) := vecOf_getElem c _ j h

@[simp] theorem gf2Mul_true (x : Bool) : gf2Mul true x = x := Bool.true_and x

@[simp] theorem gf2Mul_false (x : Bool) : gf2Mul false x = false := Bool.false_and x

/-- One gate per row of G: the entries that are 1 select the gate's inputs. -/
theorem opEnc_eq_encGates (m : Vec 4) : opEnc netlist m = encGates m := by
  apply vec_ext
  intro i hi
  rw [opEnc, mulVec_getLsbD, encGates, vecOf_getLsbD, decide_eq_true hi]
  interval_cases i <;> simp [netlist, matG, entry, rowOf_getElem, xorSum, gf2Add]

/-- One gate per row of H. -/
theorem opSyn_eq_synGates (c : Vec 7) : opSyn netlist c = synGates c := by
  apply vec_ext
  intro i hi
  rw [opSyn, mulVec_getLsbD, synGates, vecOf_getLsbD, decide_eq_true hi]
  interval_cases i <;> simp [netlist, matH, entry, rowOf_getElem, xorSum, gf2Add]

/-- One wire per row of R. -/
theorem opDec_eq_decGates (c : Vec 7) : opDec netlist c = decGates c := by
  apply vec_ext
  intro i hi
  rw [opDec, mulVec_getLsbD, decGates, vecOf_getLsbD, decide_eq_true hi]
  interval_cases i <;> simp [netlist, matR, entry, rowOf_getElem, xorSum, gf2Add]

/-! ### The corrector of R116 -/

/-- The truth table of the one-hot decoder: 8 syndromes by 7 outputs. -/
theorem hitGate_eq_val_beq :
    ∀ (y : Vec 3) (i : Nat), i < 7 → hitGate y i = (val .lsbFirst y == i + 1) := by decide

/-- Two outputs of the one-hot decoder that are both 1 name the same `val`. -/
theorem hitGate_unique {y : Vec 3} {i j : Nat} (hi : i < 7) (hj : j < 7) (hiy : hitGate y i = true)
    (hjy : hitGate y j = true) : i = j := by
  rw [hitGate_eq_val_beq y i hi, beq_iff_eq] at hiy
  rw [hitGate_eq_val_beq y j hj, beq_iff_eq] at hjy
  omega

/-- An XOR gate of the corrector inverts its bit exactly where the syndrome names it. -/
theorem corGates_getLsbD (c : Vec 7) (y : Vec 3) {i : Nat} (hi : i < 7) :
    (corGates c y).getLsbD i = (c.getLsbD i ^^ (val .lsbFirst y == i + 1)) := by
  rw [corGates, vecOf_getLsbD, hitGate_eq_val_beq y i hi, decide_eq_true hi, Bool.true_and]

/-- COR's two branches, no correction and the XOR with a unit vector, are both the XOR gates. -/
theorem opCor_eq_corGates (c : Vec 7) (y : Vec 3) : opCor netlist c y = .ok (corGates c y) := by
  have hlt : val .lsbFirst y < 8 := val_lt _ y
  cases hv : val .lsbFirst y with
  | zero =>
    rw [opCor_zero netlist c hv]
    congr 1
    apply vec_ext
    intro i hi
    rw [corGates_getLsbD c y hi, hv]
    simp
  | succ n =>
    rw [opCor_location netlist c (by omega) hv]
    congr 1
    apply vec_ext
    intro i hi
    rw [corGates_getLsbD c y hi, hv, vecAdd_eq_xor, BitVec.getLsbD_xor, unitVec_getLsbD, decide_eq_true hi]
    simp [eq_comm]

/-- Settles O30: each operation is its gates, and the decoder's outputs follow `val`. -/
theorem gatesComputeBlocks : Obligations.GatesComputeBlocks := by
  refine ⟨fun b m s => ?enc, fun b c s => ?syn, fun b c s => ?dec, fun c y s => ?cor, hitGate_eq_val_beq, ?oneHot⟩
  case enc => rw [exec_enc, opEnc_eq_encGates]
  case syn => rw [exec_syn, opSyn_eq_synGates]
  case dec => rw [exec_dec, opDec_eq_decGates]
  case cor => exact exec_cor_of_ok (opCor_eq_corGates c y) s
  case oneHot => exact fun y i hi j hj => hitGate_unique hi hj

end Sys2Proof.Proofs
end

section
/-!
PROOFS. The response function of 20_memory.md R50: what every instruction answers is the response to the typed command its
word spells, so a step is `respond` on the wires; from it, the independence of commands issued one after another (R48).
-/

namespace Sys2Proof.Proofs

open Sys2Proof.Machine Sys2Proof.Laws

/-! ### The response to what a decoder gives -/

/-- The response to a typed command or to the fault its decoding raised: the two branches of R71, apart from the decoder
that chooses between them. -/
def typedResp (cfg : Cfg) (draw : Int) : Except Fault Cmd → Resp
  | .error k => .fault k
  | .ok c => evalCmd cfg draw c

theorem respond_eq_encodeRsp (cfg : Cfg) (w : CmdWord) (r : Draw) :
    respond cfg w r = encodeRsp (typedResp cfg (r.toNat : Int) (decodeCmd w)) := by
  unfold respond
  cases decodeCmd w <;> rfl

/-! ### The two decoders -/

/-- The eight codes, first the two whose narrow operand has checked bits (R64). -/
theorem opField_cases (w : CmdWord) :
    opField w = 0#3 ∨ opField w = 6#3 ∨ opField w = 1#3 ∨ opField w = 2#3 ∨
    opField w = 3#3 ∨ opField w = 4#3 ∨ opField w = 5#3 ∨ opField w = 7#3 := by
  generalize opField w = op
  revert op
  decide

/-- The decoder of R68 is the opcode map of R66 followed by the typing of operands (R64, R67): one case per row, and two
where a narrow operand is checked. -/
theorem decodeCmd_eq_typedCmd (w : CmdWord) : decodeCmd w = typedCmd (decode w) := by
  rcases opField_cases w with h | h | h | h | h | h | h | h
  · by_cases hz : (aField w).extractLsb' 4 3 = 0#3 <;>
      simp [decodeCmd, decode, typedCmd, messageOperand, Except.map, h, hz]
  · by_cases hz : (bField w).extractLsb' 3 4 = 0#4 <;>
      simp [decodeCmd, decode, typedCmd, syndromeOperand, Except.map, h, hz]
  all_goals simp [decodeCmd, decode, typedCmd, positionOperand, h]

/-- The decoder gives RANDERR for RANDERR's code alone. -/
theorem decodeCmd_ne_randerr {w : CmdWord} (h : opField w ≠ 4#3) : decodeCmd w ≠ .ok .randerr := by
  simp only [decodeCmd, if_neg h]
  split_ifs <;> simp

/-! ### What each instruction answers -/

theorem execEnc_eq (b : BitVec 7) (z : BitVec 3) (m : Vec 4) (d : Int) (s : State) :
    execEnc b z m s = .next (s.answer (typedResp netlist d ((messageOperand z m).map .enc))) := by
  unfold execEnc
  cases messageOperand z m <;> rfl

theorem execErrat_eq (b p : BitVec 7) (s : State) :
    execErrat b p s = .next (s.answer (respOfVec7 (opErrat (positionOperand p)))) := by
  unfold execErrat
  cases opErrat (positionOperand p) <;> rfl

theorem execRanderr_eq (b a : BitVec 7) (s : State) :
    execRanderr b a s = .next (s.answer (respOfVec7 (opRanderr (drawOperand s.rnd)))) := by
  unfold execRanderr
  cases opRanderr (drawOperand s.rnd) <;> rfl

theorem execCor_eq (c : Vec 7) (z : BitVec 4) (y : Vec 3) (d : Int) (s : State) :
    execCor c z y s = .next (s.answer (typedResp netlist d ((syndromeOperand z y).map (.cor c)))) := by
  unfold execCor
  cases syndromeOperand z y with
  | error k => rfl
  | ok y =>
    simp only [Except.map, typedResp, evalCmd]
    cases opCor netlist c y <;> rfl

/-- Every instruction answers the response to the typed command it spells, or the fault of its decoding. -/
theorem exec_eq_answer (i : Instr) (s : State) :
    exec i s = .next (s.answer (typedResp netlist (drawOperand s.rnd) (typedCmd i))) := by
  cases i with
  | enc b z m => exact execEnc_eq b z m _ s
  | errat b p => exact execErrat_eq b p s
  | randerr b a => exact execRanderr_eq b a s
  | cor c z y => exact execCor_eq c z y _ s
  | syn | dec | apply | reserved7 => rfl

/-! ### The step as one function of the inputs -/

theorem step_eq_respond (s : State) : step s = .next { s with rsp := respond netlist s.cmd s.rnd } := by
  rw [step, exec_eq_answer, respond_eq_encodeRsp, decodeCmd_eq_typedCmd]
  rfl

/-- The draw is an input of RANDERR alone (R109). -/
theorem evalCmd_draw (cfg : Cfg) {c : Cmd} (h : c ≠ .randerr) (d d' : Int) : evalCmd cfg d c = evalCmd cfg d' c := by
  cases c with
  | randerr => exact absurd rfl h
  | enc | syn | dec | errat | apply | cor => rfl

theorem respond_draw (cfg : Cfg) {w : CmdWord} (h : opField w ≠ 4#3) (r r' : Draw) :
    respond cfg w r = respond cfg w r' := by
  rw [respond_eq_encodeRsp, respond_eq_encodeRsp]
  cases hc : decodeCmd w with
  | error k => rfl
  | ok c =>
    have hne : c ≠ .randerr := fun e => decodeCmd_ne_randerr h (e ▸ hc)
    exact congrArg encodeRsp (evalCmd_draw cfg hne _ _)

/-- Settles O11: the step is `respond` on the wires, and only RANDERR's command reads the draw. -/
theorem stepComputesResponseFunction : Obligations.StepComputesResponseFunction :=
  ⟨step_eq_respond, fun _ r r' h => respond_draw netlist h r r'⟩

/-! ### Commands issued one after another -/

/-- Whatever the ports held, each driven pair is answered by its own response. -/
theorem issueAll_eq_map (cs : List (CmdWord × Draw)) (s : State) :
    issueAll cs s = some (cs.map fun c => respond netlist c.1 c.2) := by
  induction cs generalizing s with
  | nil => rfl
  | cons c cs ih =>
    obtain ⟨w, r⟩ := c
    simp only [issueAll, step_eq_respond, ih, drive_cmd, drive_rnd, Option.map_some, List.map_cons]

/-- Settles O15: the pairs are the image of the list under one function, which a permutation carries along. -/
theorem commandsIndependent : Obligations.CommandsIndependent := by
  refine ⟨issueAll_eq_map, fun cs ds s s' h => ⟨_, _, issueAll_eq_map cs s, issueAll_eq_map ds s', ?_⟩⟩
  rw [← List.map_prod_left_eq_zip, ← List.map_prod_left_eq_zip]
  exact h.map _

end Sys2Proof.Proofs
end

section
/-!
PROOFS. The fields of the command word and the response word (30_encoding.md): which fields reach a response (R65), what
the reserved code answers (R67), and the response encoder word by word (R71).
-/

namespace Sys2Proof.Proofs

open Sys2Proof.Machine Sys2Proof.Laws

/-! ### The response after a step -/

theorem step_next_rsp {s t : State} (h : step s = .next t) : t.rsp = respond netlist s.cmd s.rnd := by
  rw [step_eq_respond] at h
  cases h
  rfl

/-- The command word reaches the response through the decoder alone. -/
theorem respond_congr (cfg : Cfg) {w w' : CmdWord} (h : decodeCmd w = decodeCmd w') (r : Draw) :
    respond cfg w r = respond cfg w' r := by
  rw [respond_eq_encodeRsp, respond_eq_encodeRsp, h]

theorem respond_of_decodeCmd_error {w : CmdWord} {k : Fault} (h : decodeCmd w = .error k) (cfg : Cfg) (r : Draw) :
    respond cfg w r = encodeRsp (.fault k) := by
  rw [respond_eq_encodeRsp, h, typedResp]

theorem respond_of_decodeCmd_ok {w : CmdWord} {c : Cmd} (h : decodeCmd w = .ok c) (cfg : Cfg) (r : Draw) :
    respond cfg w r = encodeRsp (evalCmd cfg r.toNat c) := by
  rw [respond_eq_encodeRsp, h, typedResp]

/-- Settles O12: a result has zeros above it, a fault its code above `y` zero, and `respond` is the encoder after the
decoder. -/
theorem responseEncoding : Obligations.ResponseEncoding :=
  ⟨fun _ => rfl, encodeRsp_okVec3, encodeRsp_okVec4, rfl, rfl, rfl,
    fun cfg _ r _ h => respond_of_decodeCmd_error h cfg r, fun cfg _ r _ h => respond_of_decodeCmd_ok h cfg r⟩

/-! ### The fields the decoder reads (R65) -/

/-- Codes 0 to 3 are ENC, SYN, DEC and ERRAT. -/
theorem op_cases_of_lt_four : ∀ op : BitVec 3, op.toNat < 4 → op = 0#3 ∨ op = 1#3 ∨ op = 2#3 ∨ op = 3#3 := by decide

/-- The decoder does not read `b` for ENC, SYN, DEC and ERRAT. -/
theorem decodeCmd_congr_a {w w' : CmdWord} (hlt : (opField w).toNat < 4) (hop : opField w = opField w')
    (ha : aField w = aField w') : decodeCmd w = decodeCmd w' := by
  rcases op_cases_of_lt_four _ hlt with h | h | h | h <;>
    simp [decodeCmd, ← hop, ← ha, h]

/-- The decoder reads neither `a` nor `b` for RANDERR. -/
theorem decodeCmd_of_randerr {w : CmdWord} (h : opField w = 4#3) : decodeCmd w = .ok .randerr := by
  simp [decodeCmd, h]

/-- Settles O17: the decoder drops the unread halves of the word, and only RANDERR's command reads the draw. -/
theorem unreadFieldsIgnored : Obligations.UnreadFieldsIgnored := by
  intro s s' t t' ht ht' hop
  rw [step_next_rsp ht, step_next_rsp ht']
  refine ⟨fun hlt ha => ?codesBelowFour, fun h4 hr => ?randerr, fun hne hw => ?notRanderr⟩
  case codesBelowFour =>
    have hne : opField s.cmd ≠ 4#3 := fun h => absurd hlt (by rw [h]; decide)
    rw [respond_draw netlist hne s.rnd s'.rnd, respond_congr netlist (decodeCmd_congr_a hlt hop ha)]
  case randerr =>
    have hdec : decodeCmd s.cmd = decodeCmd s'.cmd :=
      (decodeCmd_of_randerr h4).trans (decodeCmd_of_randerr (hop ▸ h4)).symm
    rw [respond_congr netlist hdec, hr]
  case notRanderr => rw [respond_draw netlist hne s.rnd s'.rnd, hw]

/-! ### The reserved code (R67) -/

theorem decodeCmd_of_reserved7 {w : CmdWord} (h : opField w = 7#3) : decodeCmd w = .error .illegalOp := if_pos h

/-- COR is total: a syndrome reads at most 7, so the position offered to ERRAT is in range (R117). -/
theorem opCor_ok (cfg : Cfg) (c : Vec 7) (y : Vec 3) : ∃ v : Vec 7, opCor cfg c y = .ok v := by
  have hlt : val cfg.synOrder y < 8 := val_lt _ y
  cases hv : val cfg.synOrder y with
  | zero => exact ⟨_, opCor_zero cfg c hv⟩
  | succ n => exact ⟨_, opCor_location cfg c (by omega) hv⟩

theorem respOfVec7_opErrat_fault {p : Int} {k : Fault} (h : respOfVec7 (opErrat p) = .fault k) : k = .outOfRange := by
  obtain ⟨n, -, -, hp⟩ | ⟨-, hp⟩ := opErrat_cases p
  · rw [hp] at h
    cases h
  · rw [hp] at h
    cases h
    rfl

/-- The one fault a typed command can raise is `OutOfRange`. -/
theorem evalCmd_fault {cfg : Cfg} {d : Int} {c : Cmd} {k : Fault} (h : evalCmd cfg d c = .fault k) :
    k = .outOfRange := by
  cases c with
  | errat p => exact respOfVec7_opErrat_fault h
  | randerr => exact respOfVec7_opErrat_fault h
  | cor c y =>
    obtain ⟨v, hv⟩ := opCor_ok cfg c y
    rw [evalCmd, hv] at h
    cases h
  | enc | syn | dec | apply => cases h

/-- Settles O28: code 7 is refused by the decoder, before any operation, and no operation raises its fault. -/
theorem reservedCodeIllegalOp : Obligations.ReservedCodeIllegalOp := by
  refine ⟨fun b a s => rfl, fun s h => ?step, fun cfg d c h => ?typed⟩
  case step => rw [step_eq_respond, respond_of_decodeCmd_error (decodeCmd_of_reserved7 h)]; rfl
  case typed => cases evalCmd_fault h

end Sys2Proof.Proofs
end

section
/-!
PROOFS. The arithmetic of 40_gf2_arithmetic.md for every length and size: parity is XOR (R82), the sum of two vectors
(R86), and the linearity of the matrix-vector product (R84).
-/

namespace Sys2Proof.Proofs

open Sys2Proof.Machine Sys2Proof.Laws

/-! ### Bits as numbers (R82) -/

theorem gf2Add_toNat (x y : Bool) : (gf2Add x y).toNat = (x.toNat + y.toNat) % 2 := by
  cases x <;> cases y <;> rfl

theorem gf2Mul_toNat (x y : Bool) : (gf2Mul x y).toNat = x.toNat * y.toNat := by
  cases x <;> cases y <;> rfl

theorem sum_toNat_mod_two (n : Nat) (t : Nat → Bool) :
    ((List.range n).map fun i => (t i).toNat).sum % 2 = (xorSum n t).toNat := by
  induction n with
  | zero => rfl
  | succ n ih => rw [List.sum_range_succ, xorSum, gf2Add_toNat, ← ih, Nat.mod_add_mod]

theorem mulVec_getLsbD_of_lt {r c : Nat} (A : Mat r c) (v : Vec c) {i : Nat} (hi : i < r) :
    (mulVec A v).getLsbD i = xorSum c fun j => gf2Mul (entry A i j) (v.getLsbD j) := by
  rw [mulVec_getLsbD, decide_eq_true hi, Bool.true_and]

/-- The XOR of ANDs is the parity of the sum of products. -/
theorem mulVec_getLsbD_toNat {r c : Nat} (A : Mat r c) (v : Vec c) {i : Nat} (hi : i < r) :
    ((mulVec A v).getLsbD i).toNat =
      ((List.range c).map fun j => (entry A i j).toNat * (v.getLsbD j).toNat).sum % 2 := by
  rw [mulVec_getLsbD_of_lt A v hi, ← sum_toNat_mod_two]
  simp only [gf2Mul_toNat]

/-- Settles O32: induction on the number of bits, then the product's element as the XOR of its ANDs. -/
theorem parityIsXor : Obligations.ParityIsXor :=
  ⟨sum_toNat_mod_two, fun _ _ A v _ hi => mulVec_getLsbD_toNat A v hi⟩

/-! ### The sum of two vectors (R86) -/

@[simp] theorem vecAdd_getLsbD {n : Nat} (u v : Vec n) (i : Nat) :
    (vecAdd u v).getLsbD i = (u.getLsbD i ^^ v.getLsbD i) := by
  rw [vecAdd_eq_xor, BitVec.getLsbD_xor]

@[simp] theorem vecAdd_getElem {n : Nat} (u v : Vec n) (i : Nat) (h : i < n) : (vecAdd u v)[i] = (u[i] ^^ v[i]) :=
  vecAdd_getLsbD u v i

@[simp] theorem vecAdd_zero {n : Nat} (v : Vec n) : vecAdd v 0#n = v := by
  rw [vecAdd_eq_xor, BitVec.xor_zero]

@[simp] theorem vecAdd_self {n : Nat} (v : Vec n) : vecAdd v v = 0#n := by
  rw [vecAdd_eq_xor, BitVec.xor_self]

theorem vecAdd_assoc {n : Nat} (u v w : Vec n) : vecAdd (vecAdd u v) w = vecAdd u (vecAdd v w) := by
  simp only [vecAdd_eq_xor, BitVec.xor_assoc]

/-- Adding the same vector twice changes nothing. -/
@[simp] theorem vecAdd_vecAdd_cancel {n : Nat} (u v : Vec n) : vecAdd (vecAdd u v) v = u := by
  rw [vecAdd_assoc, vecAdd_self, vecAdd_zero]

/-- Adding a unit vector inverts the element it names and no other. -/
theorem vecAdd_unitVec_getLsbD {n : Nat} (v : Vec n) (p : Nat) {i : Nat} (hi : i < n) :
    (vecAdd v (unitVec n p)).getLsbD i = if i = p then !v.getLsbD i else v.getLsbD i := by
  rw [vecAdd_getLsbD, unitVec_getLsbD, decide_eq_true hi, Bool.true_and]
  by_cases h : i = p
  · rw [if_pos h, beq_iff_eq.mpr h, Bool.xor_true]
  · rw [if_neg h, beq_false_of_ne h, Bool.xor_false]

/-- Settles O33: the laws of XOR, and the unit vector's one element that is 1. -/
theorem vectorSumLaws : Obligations.VectorSumLaws :=
  ⟨fun _ u v i _ => vecAdd_getLsbD u v i, fun _ => vecAdd_zero, fun _ => vecAdd_self, fun _ => vecAdd_vecAdd_cancel,
    fun v p _ _ hi => vecAdd_unitVec_getLsbD v p hi⟩

/-! ### The product is linear (R84) -/

/-- AND distributes over XOR. -/
theorem gf2Mul_xor (x y z : Bool) : gf2Mul x (y ^^ z) = (gf2Mul x y ^^ gf2Mul x z) := Bool.and_xor_distrib_left x y z

theorem mulVec_vecAdd {r c : Nat} (A : Mat r c) (u v : Vec c) :
    mulVec A (vecAdd u v) = vecAdd (mulVec A u) (mulVec A v) := by
  apply vec_ext
  intro i hi
  rw [vecAdd_getLsbD, mulVec_getLsbD_of_lt A _ hi, mulVec_getLsbD_of_lt A u hi, mulVec_getLsbD_of_lt A v hi,
    ← xorSum_xor]
  simp only [vecAdd_getLsbD, gf2Mul_xor]

/-- The zero vector is the sum of any vector with itself, so linearity gives its product. -/
theorem mulVec_zero {r c : Nat} (A : Mat r c) : mulVec A 0#c = 0#r := by
  rw [← vecAdd_self 0#c, mulVec_vecAdd, vecAdd_self]

/-- A sum whose terms are masked by a unit vector keeps one term. -/
theorem xorSum_gf2Mul_beq (n : Nat) (f : Nat → Bool) (j : Nat) :
    xorSum n (fun i => gf2Mul (f i) (i == j)) = (decide (j < n) && f j) := by
  induction n with
  | zero => rfl
  | succ n ih =>
    rw [xorSum, ih]
    rcases Nat.lt_trichotomy j n with h | rfl | h
    · simp [gf2Add, gf2Mul, h, Nat.lt_succ_of_lt h, beq_false_of_ne h.ne']
    · simp [gf2Add, gf2Mul]
    · simp [gf2Add, gf2Mul, h.not_gt, Nat.not_lt.mpr h, beq_false_of_ne h.ne]

theorem mulVec_unitVec {r c : Nat} (A : Mat r c) {j : Nat} (hj : j < c) : mulVec A (unitVec c j) = column A j := by
  apply vec_ext
  intro i hi
  have hterm : ∀ k : Nat, k < c →
      gf2Mul (entry A i k) ((unitVec c j).getLsbD k) = gf2Mul (entry A i k) (k == j) := fun k hk => by
    rw [unitVec_getLsbD, decide_eq_true hk, Bool.true_and]
  rw [mulVec_getLsbD_of_lt A _ hi, xorSum_congr hterm, xorSum_gf2Mul_beq, column_getLsbD, decide_eq_true hi,
    decide_eq_true hj]

/-- Adding column `j` or leaving it out is adding the terms `A[i][j] AND v[j]`. -/
theorem addSelectedColumn_getLsbD {r c : Nat} (A : Mat r c) (b : Bool) (acc : Vec r) (j : Nat) {i : Nat} (hi : i < r) :
    (if b then vecAdd acc (column A j) else acc).getLsbD i = gf2Add (acc.getLsbD i) (gf2Mul (entry A i j) b) := by
  cases b <;> simp [gf2Add, gf2Mul, hi]

/-- R84(d): the sum of those of the first `n` columns of `A` that `v` selects. -/
def sumSelectedColumns {r c : Nat} (A : Mat r c) (v : Vec c) (n : Nat) : Vec r :=
  (List.range n).foldl (fun acc j => if v.getLsbD j then vecAdd acc (column A j) else acc) 0#r

theorem sumSelectedColumns_succ {r c : Nat} (A : Mat r c) (v : Vec c) (n : Nat) :
    sumSelectedColumns A v (n + 1) =
      if v.getLsbD n then vecAdd (sumSelectedColumns A v n) (column A n) else sumSelectedColumns A v n := by
  rw [sumSelectedColumns, List.range_succ, List.foldl_append]
  rfl

theorem sumSelectedColumns_getLsbD {r c : Nat} (A : Mat r c) (v : Vec c) (n : Nat) {i : Nat} (hi : i < r) :
    (sumSelectedColumns A v n).getLsbD i = xorSum n fun j => gf2Mul (entry A i j) (v.getLsbD j) := by
  induction n with
  | zero => exact BitVec.getLsbD_zero
  | succ n ih => rw [sumSelectedColumns_succ, addSelectedColumn_getLsbD A _ _ n hi, ih, xorSum]

theorem mulVec_eq_sumSelectedColumns {r c : Nat} (A : Mat r c) (v : Vec c) :
    mulVec A v = sumSelectedColumns A v c := by
  apply vec_ext
  intro i hi
  rw [mulVec_getLsbD_of_lt A v hi, sumSelectedColumns_getLsbD A v c hi]

/-- Settles O34: linearity, the zero vector, the columns, and the sum of the selected columns. -/
theorem matrixProductLinear : Obligations.MatrixProductLinear :=
  fun _ _ A => ⟨mulVec_vecAdd A, mulVec_zero A, fun _ hj => mulVec_unitVec A hj, mulVec_eq_sumSelectedColumns A⟩

end Sys2Proof.Proofs
end

section
/-!
PROOFS. The encoder (41_encode.md): where ENC places the message and its parities (R92), and the linear, injective map
with zero syndrome it is under every configuration that meets `CfgOK` (R91).
-/

namespace Sys2Proof.Proofs

open Sys2Proof.Machine Sys2Proof.Laws

/-! ### The codeword ENC answers (R92) -/

theorem exec_enc_encGates (b : BitVec 7) (m : Vec 4) (s : State) :
    exec (.enc b 0#3 m) s = .next { s with rsp := rspWord 0#2 (encGates m) } := by
  rw [exec_enc, opEnc_eq_encGates, rspWord]

/-- Settles O20: ENC answers the encoder's gates, and each element is the output of its gate. -/
theorem encAnswersCodeword : Obligations.EncAnswersCodeword := by
  intro b m s
  refine ⟨_, exec_enc_encGates b m s, rfl, rfl, rspFault_rspWord _ _, ?_⟩
  simp [encGates]

/-! ### The product of a product -/

theorem gf2Mul_comm (x y : Bool) : gf2Mul x y = gf2Mul y x := Bool.and_comm x y

theorem gf2Mul_assoc (x y z : Bool) : gf2Mul (gf2Mul x y) z = gf2Mul x (gf2Mul y z) := Bool.and_assoc x y z

theorem gf2Mul_xorSum (x : Bool) (n : Nat) (f : Nat → Bool) :
    gf2Mul x (xorSum n f) = xorSum n fun k => gf2Mul x (f k) := by
  induction n with
  | zero => exact Bool.and_false x
  | succ n ih => rw [xorSum, gf2Add, gf2Mul_xor, ih, xorSum, gf2Add]

theorem xorSum_gf2Mul (y : Bool) (n : Nat) (f : Nat → Bool) :
    gf2Mul (xorSum n f) y = xorSum n fun k => gf2Mul (f k) y := by
  simp only [gf2Mul_comm _ y, gf2Mul_xorSum]

/-- A double sum may be taken in either order. -/
theorem xorSum_comm (n c : Nat) (f : Nat → Nat → Bool) :
    (xorSum n fun k => xorSum c (f k)) = xorSum c fun j => xorSum n fun k => f k j := by
  induction n with
  | zero => exact (xorSum_false c).symm
  | succ n ih =>
    rw [xorSum, ih, gf2Add, ← xorSum_xor]
    rfl

/-- `A · (B · v) = (A · B) · v`, the entries of `A · B` written as the clauses of R27 write them. -/
theorem mulVec_mulVec_getLsbD {r n c : Nat} (A : Mat r n) (B : Mat n c) (v : Vec c) {i : Nat} (hi : i < r) :
    (mulVec A (mulVec B v)).getLsbD i =
      xorSum c fun j => gf2Mul (xorSum n fun k => gf2Mul (entry A i k) (entry B k j)) (v.getLsbD j) := by
  have hrow : ∀ k : Nat, k < n → gf2Mul (entry A i k) ((mulVec B v).getLsbD k) =
      xorSum c fun j => gf2Mul (gf2Mul (entry A i k) (entry B k j)) (v.getLsbD j) := fun k hk => by
    rw [mulVec_getLsbD_of_lt B v hk, gf2Mul_xorSum]
    simp only [gf2Mul_assoc]
  rw [mulVec_getLsbD_of_lt A _ hi, xorSum_congr hrow, xorSum_comm]
  simp only [xorSum_gf2Mul]

/-! ### ENC under `CfgOK` (R91) -/

theorem opEnc_vecAdd (cfg : Cfg) (m n : Vec 4) : opEnc cfg (vecAdd m n) = vecAdd (opEnc cfg m) (opEnc cfg n) :=
  mulVec_vecAdd cfg.G m n

/-- Clause CI2: the rows of the identity pick out the elements of the message. -/
theorem opDec_opEnc {cfg : Cfg} (h : RoundTripClause cfg) (m : Vec 4) : opDec cfg (opEnc cfg m) = m := by
  apply vec_ext
  intro i hi
  have hterm : ∀ j : Nat, j < 4 →
      gf2Mul (xorSum 7 fun k => gf2Mul (entry cfg.R i k) (entry cfg.G k j)) (m.getLsbD j) =
        gf2Mul (m.getLsbD j) (j == i) := fun j hj => by
    rw [h i hi j hj, gf2Mul_comm, Bool.beq_comm]
  rw [opDec, opEnc, mulVec_mulVec_getLsbD _ _ _ hi, xorSum_congr hterm, xorSum_gf2Mul_beq, decide_eq_true hi,
    Bool.true_and]

/-- Clause CI4: every term of every element of the syndrome is 0. -/
theorem opSyn_opEnc {cfg : Cfg} (h : ZeroSyndromeClause cfg) (m : Vec 4) : opSyn cfg (opEnc cfg m) = 0#3 := by
  apply vec_ext
  intro k hk
  have hterm : ∀ j : Nat, j < 4 →
      gf2Mul (xorSum 7 fun i => gf2Mul (entry cfg.H k i) (entry cfg.G i j)) (m.getLsbD j) = false := fun j hj => by
    rw [h k hk j hj, gf2Mul_false]
  rw [opSyn, opEnc, mulVec_mulVec_getLsbD _ _ _ hk, xorSum_congr hterm, xorSum_false, BitVec.getLsbD_zero]

/-- DEC is a left inverse of ENC. -/
theorem opEnc_injective {cfg : Cfg} (h : RoundTripClause cfg) : Function.Injective (opEnc cfg) :=
  Function.LeftInverse.injective (opDec_opEnc h)

/-- The codewords are the range of an injective map on the 16 messages. -/
theorem card_validCodeword {cfg : Cfg} (h : RoundTripClause cfg) :
    Nat.card { c : Vec 7 // ValidCodeword cfg c } = 16 :=
  calc Nat.card { c : Vec 7 // ValidCodeword cfg c }
    _ = Nat.card (Vec 4) := Nat.card_range_of_injective (opEnc_injective h)
    _ = Nat.card (Fin (2 ^ 4)) := Nat.card_congr BitVec.equivFin.toEquiv
    _ = 16 := Nat.card_fin _

/-- Settles O42: linearity of the product, the left inverse DEC by CI2, and the zero syndrome by CI4. -/
theorem encoderLinearInjective : Obligations.EncoderLinearInjective := by
  rintro cfg ⟨hRoundTrip, -, hZero⟩
  exact ⟨opEnc_vecAdd cfg, opDec_opEnc hRoundTrip, fun _ _ e => opEnc_injective hRoundTrip e,
    card_validCodeword hRoundTrip, opSyn_opEnc hZero⟩

end Sys2Proof.Proofs
end

section
/-!
PROOFS. The syndrome (42_syndrome.md): every vector is one codeword plus the error its syndrome names, by counting; from
it, what a syndrome means (R96) and the eight classes of 16 vectors (R97).
-/

namespace Sys2Proof.Proofs

open Sys2Proof.Machine Sys2Proof.Laws

/-! ### Sums and unit vectors -/

theorem vecAdd_comm {n : Nat} (u v : Vec n) : vecAdd u v = vecAdd v u := by
  rw [vecAdd_eq_xor, vecAdd_eq_xor, BitVec.xor_comm]

@[simp] theorem zero_vecAdd {n : Nat} (v : Vec n) : vecAdd 0#n v = v := by
  rw [vecAdd_comm, vecAdd_zero]

/-- A summand moves to the other side of an equation. -/
theorem vecAdd_eq_iff {n : Nat} {u v w : Vec n} : vecAdd u v = w ↔ u = vecAdd w v := by
  constructor
  · rintro rfl
    rw [vecAdd_vecAdd_cancel]
  · rintro rfl
    rw [vecAdd_vecAdd_cancel]

theorem weight_unitVec {n p : Nat} (hp : p < n) : weight (unitVec n p) = 1 := by
  have hones : (List.range n).filter (fun i => (unitVec n p).getLsbD i) = (List.range n).filter (· == p) :=
    List.filter_congr fun i hi => by
      rw [unitVec_getLsbD, decide_eq_true (List.mem_range.mp hi), Bool.true_and]
  rw [weight, hones, ← List.count_eq_length_filter, List.count_eq_one_of_mem List.nodup_range (List.mem_range.mpr hp)]

/-- The vectors of weight 1 are the unit vectors. -/
theorem weight_eq_one_iff {n : Nat} {v : Vec n} : weight v = 1 ↔ ∃ p : Nat, p < n ∧ v = unitVec n p := by
  constructor
  · intro hw
    obtain ⟨p, hones⟩ := List.length_eq_one_iff.mp hw
    have hone : ∀ i : Nat, i < n ∧ v.getLsbD i = true ↔ i = p := fun i => by
      rw [← List.mem_range, ← List.mem_filter, hones, List.mem_singleton]
    refine ⟨p, ((hone p).mpr rfl).1, vec_ext fun i hi => ?_⟩
    rw [unitVec_getLsbD, decide_eq_true hi, Bool.true_and, Bool.eq_iff_iff, beq_iff_eq, ← hone i]
    exact (and_iff_right hi).symm
  · rintro ⟨p, hp, rfl⟩
    exact weight_unitVec hp

/-! ### SYN is linear and does not see a codeword -/

theorem opSyn_vecAdd (cfg : Cfg) (u v : Vec 7) : opSyn cfg (vecAdd u v) = vecAdd (opSyn cfg u) (opSyn cfg v) :=
  mulVec_vecAdd cfg.H u v

theorem opSyn_unitVec (cfg : Cfg) {p : Nat} (hp : p < 7) : opSyn cfg (unitVec 7 p) = column cfg.H p :=
  mulVec_unitVec cfg.H hp

/-- R96(c): the syndrome of a disturbed codeword is that of the error. -/
theorem opSyn_codeword_vecAdd {cfg : Cfg} (h : ZeroSyndromeClause cfg) {x : Vec 7} (hx : ValidCodeword cfg x)
    (e : Vec 7) : opSyn cfg (vecAdd x e) = opSyn cfg e := by
  obtain ⟨m, rfl⟩ := hx
  rw [opSyn_vecAdd, opSyn_opEnc h, zero_vecAdd]

/-! ### The error a syndrome names -/

/-- The error vector COR takes a syndrome to stand for (R115): none for a syndrome that reads 0, the unit vector at `p`
for one that reads `p + 1`. -/
def namedError (o : SynOrder) (y : Vec 3) : Vec 7 :=
  match val o y with
  | 0 => 0#7
  | p + 1 => unitVec 7 p

theorem namedError_of_val_zero {o : SynOrder} {y : Vec 3} (h : val o y = 0) : namedError o y = 0#7 := by
  rw [namedError, h]

theorem namedError_of_val_succ {o : SynOrder} {y : Vec 3} {p : Nat} (h : val o y = p + 1) :
    namedError o y = unitVec 7 p := by
  rw [namedError, h]

theorem val_zero (o : SynOrder) : val o 0#3 = 0 := by cases o <;> rfl

/-- A syndrome reads 0, and is zero, or it reads `p + 1` for a position `p`. -/
theorem val_cases (o : SynOrder) (y : Vec 3) :
    (y = 0#3 ∧ val o y = 0) ∨ ∃ p : Nat, p < 7 ∧ val o y = p + 1 := by
  cases hv : val o y with
  | zero => exact .inl ⟨val_injective o (hv.trans (val_zero o).symm), rfl⟩
  | succ p =>
    have hlt := val_lt o y
    exact .inr ⟨p, by omega, rfl⟩

/-- COR adds the error its syndrome operand names. -/
theorem opCor_eq_namedError (cfg : Cfg) (c : Vec 7) (y : Vec 3) :
    opCor cfg c y = .ok (vecAdd c (namedError cfg.synOrder y)) := by
  obtain ⟨-, hv⟩ | ⟨p, hp, hv⟩ := val_cases cfg.synOrder y
  · rw [opCor_zero cfg c hv, namedError_of_val_zero hv, vecAdd_zero]
  · rw [opCor_location cfg c hp hv, namedError_of_val_succ hv]

/-- Clause CI3: the error a syndrome names has that syndrome, so SYN is onto. -/
theorem opSyn_namedError {cfg : Cfg} (h : ErrorLocationClause cfg) (y : Vec 3) :
    opSyn cfg (namedError cfg.synOrder y) = y := by
  obtain ⟨rfl, hv⟩ | ⟨p, hp, hv⟩ := val_cases cfg.synOrder y
  · rw [namedError_of_val_zero hv]
    exact mulVec_zero cfg.H
  · rw [namedError_of_val_succ hv]
    exact val_injective cfg.synOrder ((h p hp).trans hv.symm)

/-! ### Counting: 16 codewords times 8 errors are the 128 vectors -/

/-- The codeword of a message plus the error a syndrome names. -/
def disturbedCodeword (cfg : Cfg) (my : Vec 4 × Vec 3) : Vec 7 :=
  vecAdd (opEnc cfg my.1) (namedError cfg.synOrder my.2)

theorem opSyn_disturbedCodeword {cfg : Cfg} (h : CfgOK cfg) (my : Vec 4 × Vec 3) :
    opSyn cfg (disturbedCodeword cfg my) = my.2 := by
  obtain ⟨-, hLocation, hZero⟩ := h
  rw [disturbedCodeword, opSyn_codeword_vecAdd hZero ⟨my.1, rfl⟩, opSyn_namedError hLocation]

/-- The syndrome of the sum gives the error back, and then the codeword gives the message back. -/
theorem disturbedCodeword_injective {cfg : Cfg} (h : CfgOK cfg) : Function.Injective (disturbedCodeword cfg) := by
  rintro ⟨m, y⟩ ⟨n, z⟩ heq
  obtain rfl : y = z := by
    simpa only [opSyn_disturbedCodeword h] using congrArg (opSyn cfg) heq
  have hEnc : opEnc cfg m = opEnc cfg n := by
    rw [vecAdd_eq_iff.mp heq, disturbedCodeword, vecAdd_vecAdd_cancel]
  rw [opEnc_injective h.1 hEnc]

theorem card_vec (n : Nat) : Nat.card (Vec n) = 2 ^ n :=
  (Nat.card_congr BitVec.equivFin.toEquiv).trans (Nat.card_fin _)

/-- An injective map between finite types of the same size is onto. -/
theorem disturbedCodeword_surjective {cfg : Cfg} (h : CfgOK cfg) : Function.Surjective (disturbedCodeword cfg) := by
  have hcard : Nat.card (Vec 4 × Vec 3) = Nat.card (Vec 7) := by
    rw [Nat.card_prod, card_vec, card_vec, card_vec]
    rfl
  have : Finite (Vec 7) := Finite.of_equiv _ BitVec.equivFin.toEquiv.symm
  exact ((Nat.bijective_iff_injective_and_card _).mpr ⟨disturbedCodeword_injective h, hcard⟩).surjective

/-- Taking away the error its syndrome names leaves a codeword of every vector. -/
theorem validCodeword_vecAdd_namedError {cfg : Cfg} (h : CfgOK cfg) (c : Vec 7) :
    ValidCodeword cfg (vecAdd c (namedError cfg.synOrder (opSyn cfg c))) := by
  obtain ⟨⟨m, y⟩, rfl⟩ := disturbedCodeword_surjective h c
  refine ⟨m, ?_⟩
  rw [opSyn_disturbedCodeword h, disturbedCodeword, vecAdd_vecAdd_cancel]

/-! ### What a syndrome means (R96) -/

/-- R96(a). -/
theorem opSyn_eq_zero_iff {cfg : Cfg} (h : CfgOK cfg) (c : Vec 7) : opSyn cfg c = 0#3 ↔ ValidCodeword cfg c := by
  constructor
  · intro hc
    have hcode := validCodeword_vecAdd_namedError h c
    rwa [hc, namedError_of_val_zero (val_zero _), vecAdd_zero] at hcode
  · rintro ⟨m, rfl⟩
    exact opSyn_opEnc h.2.2 m

theorem val_opSyn_codeword_vecAdd_unitVec {cfg : Cfg} (h : CfgOK cfg) {x : Vec 7} (hx : ValidCodeword cfg x) {p : Nat}
    (hp : p < 7) : val cfg.synOrder (opSyn cfg (vecAdd x (unitVec 7 p))) = p + 1 := by
  obtain ⟨-, hLocation, hZero⟩ := h
  rw [opSyn_codeword_vecAdd hZero hx]
  exact hLocation p hp

/-- Settles O44: the kernel of SYN is the code, and by linearity a codeword adds nothing to a syndrome. -/
theorem syndromeMeaning : Obligations.SyndromeMeaning := by
  intro cfg h
  refine ⟨opSyn_eq_zero_iff h, fun x hx p hp => ⟨?column, val_opSyn_codeword_vecAdd_unitVec h hx hp⟩,
    fun x e hx => opSyn_codeword_vecAdd h.2.2 hx e⟩
  case column => rw [opSyn_codeword_vecAdd h.2.2 hx, opSyn_unitVec cfg hp]

/-! ### The classes of vectors (R97) -/

/-- The vectors with syndrome `y` are the codewords, moved by the error `y` names. -/
theorem opSyn_eq_iff {cfg : Cfg} (h : CfgOK cfg) (c : Vec 7) (y : Vec 3) :
    opSyn cfg c = y ↔ ValidCodeword cfg (vecAdd c (namedError cfg.synOrder y)) := by
  rw [← opSyn_eq_zero_iff h, opSyn_vecAdd, opSyn_namedError h.2.1, vecAdd_eq_iff, zero_vecAdd]

theorem vecAdd_involutive {n : Nat} (e : Vec n) : Function.Involutive fun c => vecAdd c e :=
  fun c => vecAdd_vecAdd_cancel c e

/-- Each class has as many vectors as there are codewords. -/
theorem card_opSyn_eq {cfg : Cfg} (h : CfgOK cfg) (y : Vec 3) : Nat.card { c : Vec 7 // opSyn cfg c = y } = 16 :=
  calc Nat.card { c : Vec 7 // opSyn cfg c = y }
    _ = Nat.card { x : Vec 7 // ValidCodeword cfg x } :=
      Nat.card_congr ((vecAdd_involutive (namedError cfg.synOrder y)).toPerm.subtypeEquiv fun c => opSyn_eq_iff h c y)
    _ = 16 := card_validCodeword h.1

/-- The class of a position: the codewords with one error there. -/
theorem val_opSyn_eq_succ_iff {cfg : Cfg} (h : CfgOK cfg) (c : Vec 7) {p : Nat} (hp : p < 7) :
    val cfg.synOrder (opSyn cfg c) = p + 1 ↔ ∃ x : Vec 7, ValidCodeword cfg x ∧ c = vecAdd x (unitVec 7 p) := by
  constructor
  · intro hv
    refine ⟨vecAdd c (unitVec 7 p), ?_, (vecAdd_vecAdd_cancel c _).symm⟩
    rw [← namedError_of_val_succ hv]
    exact validCodeword_vecAdd_namedError h c
  · rintro ⟨x, hx, rfl⟩
    exact val_opSyn_codeword_vecAdd_unitVec h hx hp

/-- A codeword one bit away is the vector without the error its syndrome names. -/
theorem eq_vecAdd_namedError_of_weight_eq_one {cfg : Cfg} (h : CfgOK cfg) {c x : Vec 7} (hx : ValidCodeword cfg x)
    (hw : weight (vecAdd c x) = 1) : x = vecAdd c (namedError cfg.synOrder (opSyn cfg c)) := by
  obtain ⟨p, hp, hsum⟩ := weight_eq_one_iff.mp hw
  have hc : c = vecAdd x (unitVec 7 p) := by rw [vecAdd_comm, ← vecAdd_eq_iff, hsum]
  have hv : val cfg.synOrder (opSyn cfg c) = p + 1 := (val_opSyn_eq_succ_iff h c hp).mpr ⟨x, hx, hc⟩
  rw [namedError_of_val_succ hv, ← vecAdd_eq_iff, ← hc]

/-- The error a nonzero syndrome names has weight 1. -/
theorem weight_namedError {o : SynOrder} {y : Vec 3} (hy : y ≠ 0#3) : weight (namedError o y) = 1 := by
  obtain ⟨rfl, -⟩ | ⟨p, hp, hv⟩ := val_cases o y
  · exact absurd rfl hy
  · rw [namedError_of_val_succ hv, weight_unitVec hp]

theorem existsUnique_codeword_at_distance_one {cfg : Cfg} (h : CfgOK cfg) {c : Vec 7} (hc : ¬ ValidCodeword cfg c) :
    ∃! x : Vec 7, ValidCodeword cfg x ∧ weight (vecAdd c x) = 1 := by
  refine ⟨vecAdd c (namedError cfg.synOrder (opSyn cfg c)), ⟨validCodeword_vecAdd_namedError h c, ?distance⟩,
    fun x ⟨hx, hw⟩ => eq_vecAdd_namedError_of_weight_eq_one h hx hw⟩
  case distance =>
    rw [vecAdd_comm, vecAdd_comm c, vecAdd_vecAdd_cancel]
    exact weight_namedError fun hzero => hc ((opSyn_eq_zero_iff h c).mp hzero)

/-- Settles O45: the classes are the code moved by the eight named errors, and a vector's nearest codeword is the vector
without the error its own syndrome names. -/
theorem syndromeClasses : Obligations.SyndromeClasses := fun _ h =>
  ⟨card_opSyn_eq h, fun c _ hp => val_opSyn_eq_succ_iff h c hp, fun _ hc => existsUnique_codeword_at_distance_one h hc⟩

end Sys2Proof.Proofs
end

section
/-!
PROOFS. The decoder (43_decode.md): it gives a message back from its codeword (R101), and from a disturbed codeword the
message plus the columns of R the error selects (R102).
-/

namespace Sys2Proof.Proofs

open Sys2Proof.Machine Sys2Proof.Laws

/-- Settles O43: clause CI2 makes the matrix of DEC a left inverse of the matrix of ENC. -/
theorem decodeEncodeRoundTrip : Obligations.DecodeEncodeRoundTrip := fun _ ⟨hRoundTrip, _, _⟩ => opDec_opEnc hRoundTrip

/-! ### DEC is linear and does not correct (R102) -/

theorem opDec_vecAdd (cfg : Cfg) (u v : Vec 7) : opDec cfg (vecAdd u v) = vecAdd (opDec cfg u) (opDec cfg v) :=
  mulVec_vecAdd cfg.R u v

theorem opDec_unitVec (cfg : Cfg) {p : Nat} (hp : p < 7) : opDec cfg (unitVec 7 p) = column cfg.R p :=
  mulVec_unitVec cfg.R hp

/-- The error reaches the message as DEC of the error, whatever the message is. -/
theorem opDec_opEnc_vecAdd {cfg : Cfg} (h : RoundTripClause cfg) (m : Vec 4) (e : Vec 7) :
    opDec cfg (vecAdd (opEnc cfg m) e) = vecAdd m (opDec cfg e) := by
  rw [opDec_vecAdd, opDec_opEnc h]

/-- The columns of this hardware's R (R24): zero at the three parity positions, a unit message at each data position. -/
theorem column_matR : ∀ p : Nat, p < 7 → some (column matR p) = [0#4, 0#4, 1#4, 0#4, 2#4, 4#4, 8#4][p]? := by decide

/-- Settles O54: DEC is linear and undoes ENC, and DEC of a single error is the column of R at its position. -/
theorem uncorrectedDecode : Obligations.UncorrectedDecode := by
  refine ⟨fun cfg ⟨hRoundTrip, _, _⟩ m e => opDec_opEnc_vecAdd hRoundTrip m e, fun p hp => ?singleError⟩
  case singleError =>
    rw [opDec_unitVec netlist hp]
    exact column_matR p hp

end Sys2Proof.Proofs
end

section
/-!
PROOFS. The error vectors (44_error_vectors.md): ERRAT answers the unit vectors and nothing else, which are the vectors of
weight 1 (R105, R106).
-/

namespace Sys2Proof.Proofs

open Sys2Proof.Machine Sys2Proof.Laws

/-- The zero vector is the only one with no ones. -/
theorem weight_eq_zero_iff {n : Nat} {v : Vec n} : weight v = 0 ↔ v = 0#n := by
  rw [weight, List.length_eq_zero_iff, List.filter_eq_nil_iff]
  constructor
  · intro hnone
    refine vec_ext fun i hi => ?_
    rw [BitVec.getLsbD_zero]
    exact Bool.eq_false_iff.mpr (hnone i (List.mem_range.mpr hi))
  · rintro rfl i -
    rw [BitVec.getLsbD_zero]
    exact Bool.false_ne_true

/-- A unit vector has its 1 at one index only. -/
theorem unitVec_injective {n p q : Nat} (hp : p < n) (h : unitVec n p = unitVec n q) : p = q := by
  have hone : (unitVec n q).getLsbD p = true := by
    rw [← h, unitVec_getLsbD, decide_eq_true hp, beq_self_eq_true, Bool.and_self]
  rw [unitVec_getLsbD, decide_eq_true hp, Bool.true_and] at hone
  exact beq_iff_eq.mp hone

/-- ERRAT gives a vector exactly at the seven positions, and there the unit vector of the position. -/
theorem opErrat_eq_ok_iff {p : Int} {e : Vec 7} :
    opErrat p = .ok e ↔ ∃ n : Nat, n < 7 ∧ p = n ∧ e = unitVec 7 n := by
  constructor
  · intro he
    obtain ⟨n, hn, hp, hok⟩ | ⟨-, hfault⟩ := opErrat_cases p
    · exact ⟨n, hn, hp, Except.ok.inj (he.symm.trans hok)⟩
    · cases he.symm.trans hfault
  · rintro ⟨n, hn, rfl, rfl⟩
    exact opErrat_nat hn

/-- The results of ERRAT are the vectors of weight 1. -/
theorem exists_opErrat_eq_ok_iff {e : Vec 7} : (∃ p : Int, opErrat p = .ok e) ↔ weight e = 1 := by
  rw [weight_eq_one_iff]
  constructor
  · rintro ⟨p, hp⟩
    obtain ⟨n, hn, -, he⟩ := opErrat_eq_ok_iff.mp hp
    exact ⟨n, hn, he⟩
  · rintro ⟨n, hn, rfl⟩
    exact ⟨n, opErrat_nat hn⟩

theorem opErrat_injective {p q : Int} {e : Vec 7} (hp : opErrat p = .ok e) (hq : opErrat q = .ok e) : p = q := by
  obtain ⟨m, hm, rfl, rfl⟩ := opErrat_eq_ok_iff.mp hp
  obtain ⟨n, -, rfl, he⟩ := opErrat_eq_ok_iff.mp hq
  exact congrArg Nat.cast (unitVec_injective hm he)

/-- Settles O35: ERRAT answers the unit vector of a position and faults elsewhere, and the unit vectors are the vectors
of weight 1. -/
theorem erratUnitVectors : Obligations.ErratUnitVectors := by
  refine ⟨fun p h0 h7 => ?unitVector, fun p hp => if_pos hp, fun _ _ _ => opErrat_injective,
    fun e => exists_opErrat_eq_ok_iff.mpr, fun e => ?atMostOne⟩
  case unitVector =>
    obtain ⟨n, rfl⟩ := Int.eq_ofNat_of_zero_le h0
    have hn : n < 7 := Int.ofNat_lt.mp h7
    refine ⟨unitVec 7 n, opErrat_nat hn, weight_unitVec hn, fun i => ?_⟩
    rw [unitVec_getLsbD, Bool.eq_iff_iff, Bool.and_eq_true, decide_eq_true_iff, beq_iff_eq, decide_eq_true_iff]
    omega
  case atMostOne =>
    rw [Nat.le_one_iff_eq_zero_or_eq_one, weight_eq_zero_iff, exists_opErrat_eq_ok_iff]

end Sys2Proof.Proofs
end

section
/-!
PROOFS. The corrector (45_correct.md): with a vector's own syndrome it answers the nearest codeword (R119), and with any
other nonzero syndrome it still inverts the element that syndrome names (R118).
-/

namespace Sys2Proof.Proofs

open Sys2Proof.Machine Sys2Proof.Laws

/-! ### COR with the vector's own syndrome (R119) -/

/-- FIX takes away the error the vector's own syndrome names. -/
theorem opFix_eq_namedError (cfg : Cfg) (c : Vec 7) :
    opFix cfg c = .ok (vecAdd c (namedError cfg.synOrder (opSyn cfg c))) :=
  opCor_eq_namedError cfg c (opSyn cfg c)

theorem opFix_of_opSyn_eq_zero (cfg : Cfg) {c : Vec 7} (hc : opSyn cfg c = 0#3) : opFix cfg c = .ok c := by
  rw [opFix_eq_namedError, hc, namedError_of_val_zero (val_zero _), vecAdd_zero]

/-- COR inverts at most one element, whatever the syndrome. -/
theorem weight_namedError_le_one (o : SynOrder) (y : Vec 3) : weight (namedError o y) ≤ 1 := by
  by_cases hy : y = 0#3
  · rw [hy, namedError_of_val_zero (val_zero o), weight_eq_zero_iff.mpr rfl]
    exact Nat.zero_le 1
  · exact (weight_namedError hy).le

theorem opFix_codeword_vecAdd_unitVec {cfg : Cfg} (h : CfgOK cfg) {x : Vec 7} (hx : ValidCodeword cfg x) {p : Nat}
    (hp : p < 7) : opFix cfg (vecAdd x (unitVec 7 p)) = .ok x := by
  rw [opFix_eq_namedError, namedError_of_val_succ (val_opSyn_codeword_vecAdd_unitVec h hx hp), vecAdd_vecAdd_cancel]

/-- Settles O49: what FIX answers is a codeword, so its syndrome is zero and FIX leaves it, and it differs from the
vector by the one error the syndrome names. -/
theorem ownSyndromeCorrection : Obligations.OwnSyndromeCorrection := by
  intro cfg h
  refine ⟨fun _ => opFix_of_opSyn_eq_zero cfg, fun c => ?nearest, fun _ hx _ => opFix_codeword_vecAdd_unitVec h hx⟩
  case nearest =>
    have hcode := validCodeword_vecAdd_namedError h c
    have hsyn := (opSyn_eq_zero_iff h _).mpr hcode
    refine ⟨_, opFix_eq_namedError cfg c, hcode, hsyn, opFix_of_opSyn_eq_zero cfg hsyn, ?distance⟩
    rw [vecAdd_comm c, vecAdd_vecAdd_cancel]
    exact weight_namedError_le_one _ _

/-! ### COR with a syndrome from elsewhere (R118) -/

/-- COR of a syndrome that does not read 0 inverts the element it names. -/
theorem opCor_of_val_ne_zero (cfg : Cfg) (c : Vec 7) {y : Vec 3} (hy : val cfg.synOrder y ≠ 0) :
    opCor cfg c y = .ok (vecAdd c (unitVec 7 (val cfg.synOrder y - 1))) := by
  have hlt := val_lt cfg.synOrder y
  exact opCor_location cfg c (by omega) (Nat.succ_pred_eq_of_ne_zero hy).symm

/-- COR moves a codeword into the class of the syndrome it is given. -/
theorem opSyn_of_opCor_codeword {cfg : Cfg} (h : CfgOK cfg) {x u : Vec 7} {y : Vec 3} (hx : ValidCodeword cfg x)
    (hu : opCor cfg x y = .ok u) : opSyn cfg u = y := by
  obtain ⟨-, hLocation, hZero⟩ := h
  obtain rfl := Except.ok.inj ((opCor_eq_namedError cfg x y).symm.trans hu)
  rw [opSyn_codeword_vecAdd hZero hx, opSyn_namedError hLocation]

/-- Settles O50: the inverted element is the one the syndrome names, and a codeword so disturbed has the foreign syndrome
for its own, which is not zero. -/
theorem foreignSyndromeBelieved : Obligations.ForeignSyndromeBelieved := by
  refine ⟨fun cfg c _ => opCor_of_val_ne_zero cfg c, fun cfg h x u y hx hy hu hcode => ?noCodeword, by decide⟩
  case noCodeword =>
    have hzero : y = 0#3 := (opSyn_of_opCor_codeword h hx hu).symm.trans ((opSyn_eq_zero_iff h u).mpr hcode)
    rw [hzero] at hy
    exact hy (val_zero cfg.synOrder)

end Sys2Proof.Proofs
end

section
/-!
PROOFS. The properties of the whole system (46_system_properties.md): the journey of a codeword with one error or none
(R126 to R128), the minimum distance of the code (R130), and what recovery does with heavier errors (R134, R135). The one
idea is the error that FIX leaves behind, which is a codeword, and zero exactly for errors of weight at most 1.
-/

namespace Sys2Proof.Proofs

open Sys2Proof.Machine Sys2Proof.Laws

/-! ### The weight of a vector -/

/-- The indices of the elements that are 1. -/
def ones {n : Nat} (v : Vec n) : Finset Nat := ((List.range n).filter fun i => v.getLsbD i).toFinset

theorem weight_eq_card_ones {n : Nat} (v : Vec n) : weight v = (ones v).card :=
  (List.toFinset_card_of_nodup (List.nodup_range.filter _)).symm

@[simp] theorem mem_ones {n : Nat} {v : Vec n} {i : Nat} : i ∈ ones v ↔ v.getLsbD i = true := by
  rw [ones, List.mem_toFinset, List.mem_filter, List.mem_range, and_iff_right_of_imp BitVec.lt_of_getLsbD]

theorem ones_vecAdd_unitVec {n : Nat} {v : Vec n} {p : Nat} (hp : p < n) (hv : v.getLsbD p = false) :
    ones (vecAdd v (unitVec n p)) = insert p (ones v) := by
  ext i
  rw [Finset.mem_insert, mem_ones, mem_ones]
  by_cases hi : i < n
  · rw [vecAdd_unitVec_getLsbD v p hi]
    by_cases hip : i = p
    · simp [hip, hv]
    · simp [hip]
  · have hip : i ≠ p := by omega
    simp [hi, hip]

/-- An error where the vector holds a 0 adds a 1. -/
theorem weight_vecAdd_unitVec {n : Nat} {v : Vec n} {p : Nat} (hp : p < n) (hv : v.getLsbD p = false) :
    weight (vecAdd v (unitVec n p)) = weight v + 1 := by
  have hnot : p ∉ ones v := by rw [mem_ones, hv]; exact Bool.false_ne_true
  rw [weight_eq_card_ones, ones_vecAdd_unitVec hp hv, Finset.card_insert_of_notMem hnot, weight_eq_card_ones]

/-- An error where the vector holds a 1 takes that 1 away. -/
theorem weight_eq_weight_vecAdd_unitVec_succ {n : Nat} {v : Vec n} {p : Nat} (hv : v.getLsbD p = true) :
    weight v = weight (vecAdd v (unitVec n p)) + 1 := by
  have hp : p < n := BitVec.lt_of_getLsbD hv
  have hcleared : (vecAdd v (unitVec n p)).getLsbD p = false := by
    rw [vecAdd_unitVec_getLsbD v p hp, if_pos rfl, hv]
    rfl
  rw [← weight_vecAdd_unitVec hp hcleared, vecAdd_vecAdd_cancel]

theorem exists_getLsbD_of_ne_zero {n : Nat} {v : Vec n} (hv : v ≠ 0#n) : ∃ p : Nat, v.getLsbD p = true := by
  by_contra hnone
  push Not at hnone
  refine hv (vec_ext fun i _ => ?_)
  rw [BitVec.getLsbD_zero]
  exact Bool.eq_false_iff.mpr (hnone i)

theorem unitVec_getLsbD_of_ne {n p i : Nat} (h : i ≠ p) : (unitVec n p).getLsbD i = false := by
  rw [unitVec_getLsbD, beq_false_of_ne h, Bool.and_false]

/-- Errors at three different positions do not cancel. -/
theorem weight_three_unitVecs {n p q r : Nat} (hp : p < n) (hq : q < n) (hr : r < n) (hpq : p ≠ q) (hrp : r ≠ p)
    (hrq : r ≠ q) : weight (vecAdd (vecAdd (unitVec n p) (unitVec n q)) (unitVec n r)) = 3 := by
  have hclearQ : (unitVec n p).getLsbD q = false := unitVec_getLsbD_of_ne hpq.symm
  have hclearR : (vecAdd (unitVec n p) (unitVec n q)).getLsbD r = false := by
    rw [vecAdd_getLsbD, unitVec_getLsbD_of_ne hrp, unitVec_getLsbD_of_ne hrq, Bool.xor_false]
  rw [weight_vecAdd_unitVec hr hclearR, weight_vecAdd_unitVec hq hclearQ, weight_unitVec hp]

/-! ### Syndromes as numbers -/

/-- Syndromes add as their numbers XOR, in either order. -/
theorem val_vecAdd (o : SynOrder) (y z : Vec 3) : val o (vecAdd y z) = val o y ^^^ val o z := by
  revert y z
  cases o <;> decide

/-- Two errors read as the XOR of their one-based positions. -/
theorem val_opSyn_unitVec_vecAdd_unitVec {cfg : Cfg} (h : ErrorLocationClause cfg) {p q : Nat} (hp : p < 7)
    (hq : q < 7) : val cfg.synOrder (opSyn cfg (vecAdd (unitVec 7 p) (unitVec 7 q))) = (p + 1) ^^^ (q + 1) := by
  have hvp : val cfg.synOrder (opSyn cfg (unitVec 7 p)) = p + 1 := h p hp
  have hvq : val cfg.synOrder (opSyn cfg (unitVec 7 q)) = q + 1 := h q hq
  rw [opSyn_vecAdd, val_vecAdd, hvp, hvq]

/-- A syndrome that reads `r + 1` is column `r` of H. -/
theorem eq_column_of_val_succ {cfg : Cfg} (h : ErrorLocationClause cfg) {y : Vec 3} {r : Nat} (hr : r < 7)
    (hy : val cfg.synOrder y = r + 1) : y = column cfg.H r := by
  rw [← opSyn_unitVec cfg hr]
  exact val_injective cfg.synOrder (hy.trans (h r hr).symm)

/-- COR takes an error of weight at most 1, and no other, for what it is. -/
theorem namedError_opSyn_eq_iff {cfg : Cfg} (h : ErrorLocationClause cfg) (e : Vec 7) :
    namedError cfg.synOrder (opSyn cfg e) = e ↔ weight e ≤ 1 := by
  constructor
  · intro he
    rw [← he]
    exact weight_namedError_le_one _ _
  · rw [Nat.le_one_iff_eq_zero_or_eq_one, weight_eq_zero_iff, weight_eq_one_iff]
    rintro (rfl | ⟨p, hp, rfl⟩)
    · rw [opSyn, mulVec_zero, namedError_of_val_zero (val_zero _)]
    · exact namedError_of_val_succ (h p hp)

/-! ### Codewords -/

theorem validCodeword_zero (cfg : Cfg) : ValidCodeword cfg 0#7 := ⟨0#4, mulVec_zero cfg.G⟩

theorem validCodeword_vecAdd {cfg : Cfg} {x y : Vec 7} (hx : ValidCodeword cfg x) (hy : ValidCodeword cfg y) :
    ValidCodeword cfg (vecAdd x y) := by
  obtain ⟨m, rfl⟩ := hx
  obtain ⟨n, rfl⟩ := hy
  exact ⟨vecAdd m n, opEnc_vecAdd cfg m n⟩

/-- DEC tells codewords apart. -/
theorem opDec_codeword_eq_iff {cfg : Cfg} (h : RoundTripClause cfg) {x : Vec 7} (hx : ValidCodeword cfg x) (m : Vec 4) :
    opDec cfg x = m ↔ x = opEnc cfg m := by
  obtain ⟨n, rfl⟩ := hx
  rw [opDec_opEnc h, (opEnc_injective h).eq_iff]

theorem vecAdd_eq_left_iff {n : Nat} {u v : Vec n} : vecAdd u v = u ↔ v = 0#n := by
  rw [vecAdd_comm, vecAdd_eq_iff, vecAdd_self]

/-! ### The minimum distance (R130) -/

/-- A nonzero codeword is no sum of two errors of weight at most 1, since these would share their syndrome and be equal. -/
theorem three_le_weight_of_codeword {cfg : Cfg} (h : CfgOK cfg) {x : Vec 7} (hx : ValidCodeword cfg x) (hne : x ≠ 0#7) :
    3 ≤ weight x := by
  obtain ⟨-, hLocation, hZero⟩ := h
  obtain ⟨p, hone⟩ := exists_getLsbD_of_ne_zero hne
  have hp : p < 7 := BitVec.lt_of_getLsbD hone
  have hweight := weight_eq_weight_vecAdd_unitVec_succ hone
  by_contra hlight
  have hrest : weight (vecAdd x (unitVec 7 p)) ≤ 1 := by omega
  have hsame : vecAdd x (unitVec 7 p) = unitVec 7 p :=
    calc vecAdd x (unitVec 7 p)
      _ = namedError cfg.synOrder (opSyn cfg (vecAdd x (unitVec 7 p))) :=
        ((namedError_opSyn_eq_iff hLocation _).mpr hrest).symm
      _ = namedError cfg.synOrder (opSyn cfg (unitVec 7 p)) := by rw [opSyn_codeword_vecAdd hZero hx]
      _ = unitVec 7 p := (namedError_opSyn_eq_iff hLocation _).mpr (weight_unitVec hp).le
  exact hne (by rw [vecAdd_eq_iff.mp hsame, vecAdd_self])

/-- The first three positions, one-based, XOR to 0, so their errors together are a codeword. -/
theorem validCodeword_seven {cfg : Cfg} (h : CfgOK cfg) : ValidCodeword cfg 0x07#7 := by
  have hsum : (0x07#7 : Vec 7) = vecAdd (vecAdd (unitVec 7 0) (unitVec 7 1)) (unitVec 7 2) := by decide
  have hlast : val cfg.synOrder (opSyn cfg (unitVec 7 2)) = 3 := h.2.1 2 (by decide)
  rw [← opSyn_eq_zero_iff h, hsum, opSyn_vecAdd]
  apply val_injective cfg.synOrder
  rw [val_vecAdd, val_opSyn_unitVec_vecAdd_unitVec h.2.1 (by decide) (by decide), hlast, val_zero]
  rfl

/-- Settles O51: the difference of two codewords is a nonzero codeword, and 0x07 is one of weight 3. -/
theorem minimumDistanceThree : Obligations.MinimumDistanceThree := by
  refine fun cfg h => ⟨fun x y hx hy hne => ?distance, validCodeword_zero cfg, validCodeword_seven h, by decide⟩
  case distance =>
    refine three_le_weight_of_codeword h (validCodeword_vecAdd hx hy) fun hzero => hne ?_
    rw [vecAdd_eq_iff.mp hzero, zero_vecAdd]

/-! ### The error that FIX leaves -/

/-- An error with the one added that COR takes it for: what is left of it in the corrected vector. -/
def residualError (cfg : Cfg) (e : Vec 7) : Vec 7 := vecAdd e (namedError cfg.synOrder (opSyn cfg e))

/-- Whatever the error, FIX answers a codeword. -/
theorem validCodeword_residualError {cfg : Cfg} (h : CfgOK cfg) (e : Vec 7) : ValidCodeword cfg (residualError cfg e) :=
  validCodeword_vecAdd_namedError h e

/-- FIX takes away errors of weight at most 1, and no others. -/
theorem residualError_eq_zero_iff {cfg : Cfg} (h : ErrorLocationClause cfg) (e : Vec 7) :
    residualError cfg e = 0#7 ↔ weight e ≤ 1 := by
  rw [residualError, vecAdd_eq_iff, zero_vecAdd, eq_comm, namedError_opSyn_eq_iff h]

theorem opFix_codeword_vecAdd {cfg : Cfg} (h : ZeroSyndromeClause cfg) {x : Vec 7} (hx : ValidCodeword cfg x)
    (e : Vec 7) : opFix cfg (vecAdd x e) = .ok (vecAdd x (residualError cfg e)) := by
  rw [opFix_eq_namedError, opSyn_codeword_vecAdd h hx, vecAdd_assoc, residualError]

theorem opRecover_of_opFix {cfg : Cfg} {c u : Vec 7} (hu : opFix cfg c = .ok u) :
    opRecover cfg c = .ok (opDec cfg u) := by
  rw [opRecover, hu]

theorem validCodeword_vecAdd_residualError {cfg : Cfg} (h : CfgOK cfg) (m : Vec 4) (e : Vec 7) :
    ValidCodeword cfg (vecAdd (opEnc cfg m) (residualError cfg e)) :=
  validCodeword_vecAdd ⟨m, rfl⟩ (validCodeword_residualError h e)

/-- FIX gives the codeword that was sent exactly for errors of weight at most 1. -/
theorem vecAdd_residualError_eq_iff {cfg : Cfg} (h : CfgOK cfg) (x e : Vec 7) :
    vecAdd x (residualError cfg e) = x ↔ weight e ≤ 1 := by
  rw [vecAdd_eq_left_iff, residualError_eq_zero_iff h.2.1]

/-- DEC of the corrected vector is the message exactly for errors of weight at most 1. -/
theorem opDec_vecAdd_residualError_eq_iff {cfg : Cfg} (h : CfgOK cfg) (m : Vec 4) (e : Vec 7) :
    opDec cfg (vecAdd (opEnc cfg m) (residualError cfg e)) = m ↔ weight e ≤ 1 := by
  rw [opDec_codeword_eq_iff h.1 (validCodeword_vecAdd_residualError h m e), vecAdd_residualError_eq_iff h]

theorem opRecover_opEnc_vecAdd {cfg : Cfg} (h : CfgOK cfg) (m : Vec 4) (e : Vec 7) :
    opRecover cfg (vecAdd (opEnc cfg m) e) = .ok (opDec cfg (vecAdd (opEnc cfg m) (residualError cfg e))) :=
  opRecover_of_opFix (opFix_codeword_vecAdd h.2.2 ⟨m, rfl⟩ e)

/-! ### One error, or none (R126 to R128) -/

theorem opFlip_of_lt (c : Vec 7) {p : Nat} (hp : p < 7) : opFlip c p = .ok (vecAdd c (unitVec 7 p)) := by
  rw [opFlip, opErrat_nat hp]
  rfl

/-- The syndrome of a codeword with one error is the column of H at its position, whatever the message. -/
theorem opSyn_opEnc_vecAdd_unitVec {cfg : Cfg} (h : ZeroSyndromeClause cfg) (m : Vec 4) {p : Nat} (hp : p < 7) :
    opSyn cfg (vecAdd (opEnc cfg m) (unitVec 7 p)) = column cfg.H p := by
  rw [opSyn_codeword_vecAdd h ⟨m, rfl⟩, opSyn_unitVec cfg hp]

/-- The columns of this hardware's H (R22) read 1 to 7. -/
theorem column_matH : ∀ p : Nat, p < 7 → some (column matH p) = [1#3, 2#3, 3#3, 4#3, 5#3, 6#3, 7#3][p]? := by decide

theorem zeroSyndromeClause_netlist : ZeroSyndromeClause netlist := by decide

/-- Settles O46: the syndrome is column `p` of H, which no message enters, and it reads `p + 1`. -/
theorem syndromeLocatesError : Obligations.SyndromeLocatesError := by
  refine ⟨fun cfg h m p hp => ⟨_, opFlip_of_lt _ hp, ?location, fun n => ⟨_, opFlip_of_lt _ hp, ?everyMessage⟩⟩,
    fun m p hp => ⟨_, opFlip_of_lt _ hp, ?netlist⟩⟩
  case location =>
    rw [val_opSyn_codeword_vecAdd_unitVec h ⟨m, rfl⟩ hp]
    omega
  case everyMessage => rw [opSyn_opEnc_vecAdd_unitVec h.2.2 n hp, opSyn_opEnc_vecAdd_unitVec h.2.2 m hp]
  case netlist =>
    rw [opSyn_opEnc_vecAdd_unitVec zeroSyndromeClause_netlist m hp]
    exact column_matH p hp

/-- Settles O47: COR with the vector's own syndrome is FIX, which gives the codeword back. -/
theorem singleErrorRecovered : Obligations.SingleErrorRecovered := fun cfg h m _ hp =>
  ⟨_, opEnc cfg m, opFlip_of_lt _ hp, opFix_codeword_vecAdd_unitVec h ⟨m, rfl⟩ hp, opDec_opEnc h.1 m⟩

/-- Settles O48: a codeword has zero syndrome and passes unchanged, and FIX leaves nothing of an error of weight at most
1. -/
theorem noErrorJourney : Obligations.NoErrorJourney := by
  intro cfg h m
  have hsyn : opSyn cfg (opEnc cfg m) = 0#3 := opSyn_opEnc h.2.2 m
  have hdec : opDec cfg (opEnc cfg m) = m := opDec_opEnc h.1 m
  refine ⟨hsyn, opCor_zero cfg _ (val_zero _), hdec, vecAdd_zero _, ?recover, fun e he => ?lightError⟩
  case recover => rw [opRecover_of_opFix (opFix_of_opSyn_eq_zero cfg hsyn), hdec]
  case lightError =>
    rw [opApply, opRecover_opEnc_vecAdd h, (opDec_vecAdd_residualError_eq_iff h m e).mpr he]

/-! ### Two errors (R134) -/

/-- The XOR of two different one-based positions is a third. -/
theorem exists_third_position {p q : Nat} (hp : p < 7) (hq : q < 7) (hpq : p ≠ q) :
    ∃ r < 7, r + 1 = (p + 1) ^^^ (q + 1) ∧ r ≠ p ∧ r ≠ q := by
  have hlt : (p + 1) ^^^ (q + 1) < 2 ^ 3 := Nat.xor_lt_two_pow (by omega) (by omega)
  have hne : (p + 1) ^^^ (q + 1) ≠ 0 := fun h => hpq (Nat.succ_injective (Nat.xor_eq_zero_iff.mp h))
  obtain ⟨r, hr⟩ := Nat.exists_eq_succ_of_ne_zero hne
  refine ⟨r, by omega, hr.symm, ?_, ?_⟩
  · rintro rfl
    exact absurd (Nat.xor_right_inj.mp (hr.trans (Nat.xor_zero _).symm)) (Nat.succ_ne_zero q)
  · rintro rfl
    exact absurd (Nat.xor_left_inj.mp (hr.trans (Nat.zero_xor _).symm)) (Nat.succ_ne_zero p)

/-- Two errors leave three: COR adds the one their syndrome names. -/
theorem residualError_two_unitVecs {cfg : Cfg} (h : ErrorLocationClause cfg) {p q r : Nat} (hp : p < 7) (hq : q < 7)
    (hr : r + 1 = (p + 1) ^^^ (q + 1)) : residualError cfg (vecAdd (unitVec 7 p) (unitVec 7 q)) =
      vecAdd (vecAdd (unitVec 7 p) (unitVec 7 q)) (unitVec 7 r) := by
  rw [residualError, namedError_of_val_succ ((val_opSyn_unitVec_vecAdd_unitVec h hp hq).trans hr.symm)]

/-- Settles O52: the syndrome of the two errors reads as a third position, so FIX adds a third error, and the sum of the
three is a codeword. -/
theorem doubleErrorsMiscorrected : Obligations.DoubleErrorsMiscorrected := by
  intro cfg h m p hp q hq hpq
  have ⟨_, hLocation, hZero⟩ := h
  obtain ⟨r, hr, hxor, hrp, hrq⟩ := exists_third_position hp hq hpq
  have hres := residualError_two_unitVecs hLocation hp hq hxor
  have hweight := weight_three_unitVecs hp hq hr hpq hrp hrq
  have hval := (val_opSyn_unitVec_vecAdd_unitVec hLocation hp hq).trans hxor.symm
  simp only [vecAdd_assoc (opEnc cfg m), opSyn_codeword_vecAdd hZero ⟨m, rfl⟩]
  refine ⟨r, hr, hxor, hrp, hrq, fun hsyn => ?nonzero, eq_column_of_val_succ hLocation hr hval,
    _, opFix_codeword_vecAdd hZero ⟨m, rfl⟩ _, ?third, validCodeword_vecAdd_residualError h m _, ?distance, ?message⟩
  case nonzero =>
    rw [hsyn, val_zero] at hval
    exact absurd hval.symm (Nat.succ_ne_zero r)
  case third => rw [hres]
  case distance => rw [vecAdd_comm (opEnc cfg m), vecAdd_vecAdd_cancel, hres, hweight]
  case message =>
    have hheavy : ¬ weight (vecAdd (unitVec 7 p) (unitVec 7 q)) ≤ 1 := fun hlight => by
      rw [← residualError_eq_zero_iff hLocation, hres, ← weight_eq_zero_iff, hweight] at hlight
      omega
    exact fun hm => hheavy ((opDec_vecAdd_residualError_eq_iff h m _).mp hm)

/-! ### Any error (R135) -/

/-- An error that is a codeword moves one codeword to another. -/
theorem opDec_opEnc_vecAdd_codeword_ne {cfg : Cfg} (h : RoundTripClause cfg) (m : Vec 4) {e : Vec 7}
    (he : ValidCodeword cfg e) (hne : e ≠ 0#7) : opDec cfg (vecAdd (opEnc cfg m) e) ≠ m := by
  rw [Ne, opDec_codeword_eq_iff h (validCodeword_vecAdd ⟨m, rfl⟩ he), vecAdd_eq_left_iff]
  exact hne

/-- Settles O53: recovery answers DEC of the sent codeword plus what FIX leaves of the error, a codeword that is zero
exactly for errors of weight at most 1. -/
theorem heavyErrorsUnseen : Obligations.HeavyErrorsUnseen := by
  intro cfg h m e
  refine ⟨⟨_, opRecover_opEnc_vecAdd h m e, opDec_vecAdd_residualError_eq_iff h m e⟩, fun he hne => ?codeword,
    fun hheavy _ => ?heavy⟩
  case codeword =>
    have hcode : ValidCodeword cfg (opApply (opEnc cfg m) e) := validCodeword_vecAdd ⟨m, rfl⟩ he
    have hsyn := (opSyn_eq_zero_iff h _).mpr hcode
    exact ⟨hcode, hsyn, opFix_of_opSyn_eq_zero cfg hsyn, opDec_opEnc_vecAdd_codeword_ne h.1 m he hne⟩
  case heavy =>
    refine ⟨_, opFix_codeword_vecAdd h.2.2 ⟨m, rfl⟩ e, validCodeword_vecAdd_residualError h m e, fun hsame => ?_⟩
    have hlight := (vecAdd_residualError_eq_iff h _ e).mp hsame
    omega

end Sys2Proof.Proofs
end

section
/-!
PROOFS. The faults (60_exceptions.md): the code in the response as a function of the command and the draw (R141, R142),
and how many command words give each of them (R143).
-/

namespace Sys2Proof.Proofs

open Sys2Proof.Machine Sys2Proof.Laws

/-! ### The fault a response carries (R141) -/

/-- The code of a response of the operation level, before it is a word: 0 for a result. -/
def respCode : Resp → BitVec 2
  | .okVec7 _ | .okVec3 _ | .okVec4 _ => 0#2
  | .fault k => faultCode k

@[simp] theorem respCode_okVec7 (v : Vec 7) : respCode (.okVec7 v) = 0#2 := rfl
@[simp] theorem respCode_okVec3 (v : Vec 3) : respCode (.okVec3 v) = 0#2 := rfl
@[simp] theorem respCode_okVec4 (v : Vec 4) : respCode (.okVec4 v) = 0#2 := rfl
@[simp] theorem respCode_fault (k : Fault) : respCode (.fault k) = faultCode k := rfl

theorem rspFault_encodeRsp (x : Resp) : rspFault (encodeRsp x) = respCode x := by
  cases x <;> exact rspFault_rspWord _ _

/-- A code that is not 0 stands above `y` zero. -/
theorem encodeRsp_of_respCode_ne_zero {x : Resp} (h : respCode x ≠ 0#2) : encodeRsp x = rspWord (respCode x) 0#7 := by
  cases x with
  | fault k => rfl
  | okVec7 | okVec3 | okVec4 => exact absurd rfl h

/-- ERRAT of an operand the port can present. -/
theorem respCode_opErrat (n : Nat) : respCode (respOfVec7 (opErrat n)) = if 7 ≤ n then 2#2 else 0#2 := by
  obtain ⟨m, hm, hnm, hp⟩ | ⟨hn, hp⟩ := opErrat_cases n
  · rw [hp, if_neg (by omega)]
    rfl
  · rw [hp, if_pos (by omega)]
    rfl

theorem respCode_opCor (cfg : Cfg) (c : Vec 7) (y : Vec 3) : respCode (respOfVec7 (opCor cfg c y)) = 0#2 := by
  obtain ⟨v, hv⟩ := opCor_ok cfg c y
  rw [hv]
  rfl

/-! ### The table of fault codes (R141, R142) -/

/-- The code a command word and a draw give. -/
def faultTable (w : CmdWord) (r : Draw) : BitVec 2 :=
  if opField w = 7#3 then 3#2
  else if opField w = 0#3 ∧ (aField w).extractLsb' 4 3 ≠ 0#3 then 1#2
  else if opField w = 6#3 ∧ (bField w).extractLsb' 3 4 ≠ 0#4 then 1#2
  else if opField w = 3#3 ∧ 7 ≤ (aField w).toNat then 2#2
  else if opField w = 4#3 ∧ 7 ≤ r.toNat then 2#2
  else 0#2

/-- The code of what the decoder gives is the table's, one case per operation, and two where a narrow operand is
checked. -/
theorem respCode_typedResp (cfg : Cfg) (w : CmdWord) (r : Draw) :
    respCode (typedResp cfg r.toNat (decodeCmd w)) = faultTable w r := by
  rcases opField_cases w with hEnc | hCor | hSyn | hDec | hErrat | hRanderr | hApply | hReserved
  · by_cases hz : (aField w).extractLsb' 4 3 = 0#3 <;>
      simp [decodeCmd, faultTable, typedResp, evalCmd, faultCode, hEnc, hz]
  · by_cases hz : (bField w).extractLsb' 3 4 = 0#4 <;>
      simp [decodeCmd, faultTable, typedResp, evalCmd, faultCode, respCode_opCor, hCor, hz]
  · simp [decodeCmd, faultTable, typedResp, evalCmd, hSyn]
  · simp [decodeCmd, faultTable, typedResp, evalCmd, hDec]
  · simp [decodeCmd, faultTable, typedResp, evalCmd, respCode_opErrat, hErrat]
  · simp [decodeCmd, faultTable, typedResp, evalCmd, opRanderr, respCode_opErrat, hRanderr]
  · simp [decodeCmd, faultTable, typedResp, evalCmd, hApply]
  · simp [decodeCmd, faultTable, typedResp, faultCode, hReserved]

theorem rspFault_respond (cfg : Cfg) (w : CmdWord) (r : Draw) : rspFault (respond cfg w r) = faultTable w r := by
  rw [respond_eq_encodeRsp, rspFault_encodeRsp, respCode_typedResp]

/-- A response with a fault is the fault's code and nothing else. -/
theorem respond_of_faultTable_ne_zero (cfg : Cfg) {w : CmdWord} {r : Draw} (h : faultTable w r ≠ 0#2) :
    respond cfg w r = rspWord (faultTable w r) 0#7 := by
  rw [← respCode_typedResp cfg] at h ⊢
  rw [respond_eq_encodeRsp, encodeRsp_of_respCode_ne_zero h]

/-- Settles O18: a step is `respond` on the wires, whose code the table gives. -/
theorem faultCodeExactlyWhen : Obligations.FaultCodeExactlyWhen := by
  intro s t h
  rw [step_eq_respond] at h
  cases h
  refine ⟨rspFault_respond netlist s.cmd s.rnd, fun hne => ?_⟩
  rw [rspFault_respond] at hne ⊢
  rw [respond_of_faultTable_ne_zero netlist hne, rspWord]

/-! ### Which words give a fault -/

theorem respond_eq_faultWord_iff (cfg : Cfg) (w : CmdWord) (r : Draw) {f : BitVec 2} (hf : f ≠ 0#2) :
    respond cfg w r = rspWord f 0#7 ↔ faultTable w r = f := by
  constructor
  · intro h
    rw [← rspFault_respond cfg, h, rspFault_rspWord]
  · rintro rfl
    exact respond_of_faultTable_ne_zero cfg hf

theorem faultTable_reserved7 {w : CmdWord} (h : opField w = 7#3) (r : Draw) : faultTable w r = 3#2 := if_pos h

theorem faultTable_enc_eq_one_iff {w : CmdWord} (h : opField w = 0#3) (r : Draw) :
    faultTable w r = 1#2 ↔ (aField w).extractLsb' 4 3 ≠ 0#3 := by
  simp [faultTable, h]

theorem faultTable_cor_eq_one_iff {w : CmdWord} (h : opField w = 6#3) (r : Draw) :
    faultTable w r = 1#2 ↔ (bField w).extractLsb' 3 4 ≠ 0#4 := by
  simp [faultTable, h]

theorem faultTable_errat_eq_two_iff {w : CmdWord} (h : opField w = 3#3) (r : Draw) :
    faultTable w r = 2#2 ↔ 7 ≤ (aField w).toNat := by
  simp [faultTable, h]

theorem faultTable_randerr_eq_two_iff {w : CmdWord} (h : opField w = 4#3) (r : Draw) :
    faultTable w r = 2#2 ↔ 7 ≤ r.toNat := by
  simp [faultTable, h]

/-- The operation of a word with a fault, and its code (R142). -/
theorem op_of_faultTable_ne_zero {w : CmdWord} {r : Draw} (h : faultTable w r ≠ 0#2) :
    (opField w = 7#3 ∧ faultTable w r = 3#2) ∨ (opField w = 0#3 ∧ faultTable w r = 1#2) ∨
    (opField w = 6#3 ∧ faultTable w r = 1#2) ∨ (opField w = 3#3 ∧ faultTable w r = 2#2) ∨
    (opField w = 4#3 ∧ 7 ≤ r.toNat) := by
  unfold faultTable at h ⊢
  split_ifs at h ⊢ with h7 h0 h6 h3 h4
  · exact .inl ⟨h7, rfl⟩
  · exact .inr (.inl ⟨h0.1, rfl⟩)
  · exact .inr (.inr (.inl ⟨h6.1, rfl⟩))
  · exact .inr (.inr (.inr (.inl ⟨h3.1, rfl⟩)))
  · exact .inr (.inr (.inr (.inr h4)))
  · exact absurd rfl h

/-! ### Counting command words (R143) -/

theorem cmdWord_fields (w : CmdWord) : cmdWord (opField w) (bField w) (aField w) = w := by
  apply BitVec.eq_of_getLsbD_eq
  intro i hi
  simp only [cmdWord, opField, bField, aField, BitVec.getLsbD_append, BitVec.getLsbD_extractLsb']
  by_cases ha : i < 7
  · simp [ha]
  by_cases hb : i - 7 < 7
  · simp [ha, hb, show 7 + (i - 7) = i by omega]
  · simp [ha, hb, show 14 + (i - 7 - 7) = i by omega, show i - 7 - 7 < 3 by omega]

/-- A command word is its three fields (R62). -/
def fieldsEquiv : CmdWord ≃ BitVec 3 × Vec 7 × Vec 7 where
  toFun w := (opField w, aField w, bField w)
  invFun x := cmdWord x.1 x.2.2 x.2.1
  left_inv := cmdWord_fields
  right_inv _ := Prod.ext (opField_cmdWord _ _ _) (Prod.ext (aField_cmdWord _ _ _) (bField_cmdWord _ _ _))

/-- The words of one operation, with a condition on each of the other fields. -/
theorem card_words (op : BitVec 3) (P Q : Vec 7 → Prop) :
    Nat.card { w : CmdWord // opField w = op ∧ P (aField w) ∧ Q (bField w) } =
      Nat.card { a // P a } * Nat.card { b // Q b } :=
  calc Nat.card { w : CmdWord // opField w = op ∧ P (aField w) ∧ Q (bField w) }
    _ = Nat.card { x : BitVec 3 × Vec 7 × Vec 7 // x.1 = op ∧ P x.2.1 ∧ Q x.2.2 } :=
      Nat.card_congr (fieldsEquiv.subtypeEquiv fun _ => Iff.rfl)
    _ = Nat.card ({ o // o = op } × { ab : Vec 7 × Vec 7 // P ab.1 ∧ Q ab.2 }) :=
      Nat.card_congr (Equiv.subtypeProdEquivProd (p := (· = op)) (q := fun ab : Vec 7 × Vec 7 => P ab.1 ∧ Q ab.2))
    _ = Nat.card { ab : Vec 7 × Vec 7 // P ab.1 ∧ Q ab.2 } := by rw [Nat.card_prod, Nat.card_unique, Nat.one_mul]
    _ = Nat.card { a // P a } * Nat.card { b // Q b } := by
      rw [Nat.card_congr Equiv.subtypeProdEquivProd, Nat.card_prod]

theorem card_vec_true (n : Nat) : Nat.card { _v : Vec n // True } = 2 ^ n :=
  (Nat.card_congr (Equiv.subtypeUnivEquiv fun _ => trivial)).trans (card_vec n)

theorem card_words_of_op (op : BitVec 3) : Nat.card { w : CmdWord // opField w = op } = 2 ^ 14 := by
  have h := card_words op (fun _ => True) fun _ => True
  simp only [and_true, card_vec_true] at h
  rw [h]
  rfl

theorem card_words_of_a (op : BitVec 3) (P : Vec 7 → Prop) :
    Nat.card { w : CmdWord // opField w = op ∧ P (aField w) } = Nat.card { a // P a } * 2 ^ 7 := by
  have h := card_words op P fun _ => True
  simpa only [and_true, card_vec_true] using h

theorem card_words_of_b (op : BitVec 3) (Q : Vec 7 → Prop) :
    Nat.card { w : CmdWord // opField w = op ∧ Q (bField w) } = 2 ^ 7 * Nat.card { b // Q b } := by
  have h := card_words op (fun _ => True) Q
  simpa only [true_and, card_vec_true] using h

/-- The vectors that read `k` or more. -/
theorem card_le_toNat {n k : Nat} (hk : k < 2 ^ n) : Nat.card { v : Vec n // k ≤ v.toNat } = 2 ^ n - k :=
  calc Nat.card { v : Vec n // k ≤ v.toNat }
    _ = Nat.card { i : Fin (2 ^ n) // ⟨k, hk⟩ ≤ i } :=
      Nat.card_congr (BitVec.equivFin.toEquiv.subtypeEquiv fun _ => Iff.rfl)
    _ = (Finset.Ici (⟨k, hk⟩ : Fin (2 ^ n))).card := Nat.subtype_card _ fun _ => Finset.mem_Ici
    _ = 2 ^ n - k := Fin.card_Ici _

/-- A vector has a 1 above its low `k` bits exactly where it reads `2 ^ k` or more. -/
theorem extractLsb'_ne_zero_iff {k m : Nat} (v : Vec (k + m)) : v.extractLsb' k m ≠ 0#m ↔ 2 ^ k ≤ v.toNat := by
  have hlt : v.toNat / 2 ^ k < 2 ^ m := Nat.div_lt_of_lt_mul (Nat.pow_add 2 k m ▸ v.isLt)
  rw [Ne, ← BitVec.toNat_inj, BitVec.extractLsb'_toNat, Nat.shiftRight_eq_div_pow, Nat.mod_eq_of_lt hlt,
    BitVec.toNat_ofNat, Nat.zero_mod, Nat.div_eq_zero_iff_lt (Nat.two_pow_pos k), Nat.not_lt]

/-- The fields a narrow operand of `k` bits does not fit: all but those that read below `2 ^ k`. -/
theorem card_extractLsb'_ne_zero {k m : Nat} (hm : 0 < m) :
    Nat.card { v : Vec (k + m) // v.extractLsb' k m ≠ 0#m } = 2 ^ (k + m) - 2 ^ k := by
  simp only [extractLsb'_ne_zero_iff]
  exact card_le_toNat (Nat.pow_lt_pow_right (by decide) (by omega))

/-- Of the 128 values of `a`, the 16 that are a message are taken. -/
theorem card_refused_messageField : Nat.card { a : Vec 7 // a.extractLsb' 4 3 ≠ 0#3 } = 112 :=
  card_extractLsb'_ne_zero (k := 4) (m := 3) (by decide)

/-- Of the 128 values of `b`, the 8 that are a syndrome are taken. -/
theorem card_refused_syndromeField : Nat.card { b : Vec 7 // b.extractLsb' 3 4 ≠ 0#4 } = 120 :=
  card_extractLsb'_ne_zero (k := 3) (m := 4) (by decide)

/-- Of the 128 values of `a`, the 7 that are a position are taken. -/
theorem card_refused_positionField : Nat.card { a : Vec 7 // 7 ≤ a.toNat } = 121 := card_le_toNat (by decide)

/-- Words of one operation that answer a fault are counted by the condition on which it is raised. -/
theorem card_faulting (cfg : Cfg) (r : Draw) {op : BitVec 3} {f : BitVec 2} (hf : f ≠ 0#2) {C : CmdWord → Prop}
    (hC : ∀ w : CmdWord, opField w = op → (faultTable w r = f ↔ C w)) :
    Nat.card { w : CmdWord // opField w = op ∧ respond cfg w r = rspWord f 0#7 } =
      Nat.card { w : CmdWord // opField w = op ∧ C w } :=
  Nat.card_congr (Equiv.subtypeEquivRight fun w =>
    and_congr_right fun h => (respond_eq_faultWord_iff cfg w r hf).trans (hC w h))

theorem card_illegalOp (cfg : Cfg) (r : Draw) :
    Nat.card { w : CmdWord // opField w = 7#3 ∧ respond cfg w r = rspWord 3#2 0#7 } = 2 ^ 14 := by
  rw [card_faulting cfg r (by decide) fun w h => iff_true_intro (faultTable_reserved7 h r)]
  simpa only [and_true] using card_words_of_op 7#3

theorem card_enc_dimensionMismatch (cfg : Cfg) (r : Draw) :
    Nat.card { w : CmdWord // opField w = 0#3 ∧ respond cfg w r = rspWord 1#2 0#7 } = 14336 := by
  rw [card_faulting cfg r (by decide) fun w h => faultTable_enc_eq_one_iff h r,
    card_words_of_a 0#3 fun a => a.extractLsb' 4 3 ≠ 0#3, card_refused_messageField]
  rfl

theorem card_cor_dimensionMismatch (cfg : Cfg) (r : Draw) :
    Nat.card { w : CmdWord // opField w = 6#3 ∧ respond cfg w r = rspWord 1#2 0#7 } = 15360 := by
  rw [card_faulting cfg r (by decide) fun w h => faultTable_cor_eq_one_iff h r,
    card_words_of_b 6#3 fun b => b.extractLsb' 3 4 ≠ 0#4, card_refused_syndromeField]
  rfl

theorem card_errat_outOfRange (cfg : Cfg) (r : Draw) :
    Nat.card { w : CmdWord // opField w = 3#3 ∧ respond cfg w r = rspWord 2#2 0#7 } = 15488 := by
  rw [card_faulting cfg r (by decide) fun w h => faultTable_errat_eq_two_iff h r,
    card_words_of_a 3#3 fun a => 7 ≤ a.toNat, card_refused_positionField]
  rfl

/-- Settles O19: each count is the number of values of the field that raises the fault, times the 128 of the other. -/
theorem faultCounts : Obligations.FaultCounts := by
  refine ⟨card_words_of_op, fun r => ⟨card_illegalOp netlist r, card_enc_dimensionMismatch netlist r,
    card_cor_dimensionMismatch netlist r, card_errat_outOfRange netlist r, fun w h => ?randerr, fun w h => ?others⟩⟩
  case randerr =>
    exact (respond_eq_faultWord_iff netlist w r (by decide)).trans (faultTable_randerr_eq_two_iff h r)
  case others =>
    rw [rspFault_respond] at h
    have hword : ∀ {f : BitVec 2}, faultTable w r = f → respond netlist w r = rspWord f 0#7 :=
      fun hf => hf ▸ respond_of_faultTable_ne_zero netlist h
    exact (op_of_faultTable_ne_zero h).imp (.imp_right hword) <| .imp (.imp_right hword) <|
      .imp (.imp_right hword) <| .imp_left (.imp_right hword)

end Sys2Proof.Proofs
end

section
/-!
PROOFS. The command word (30_encoding.md section 4): the decoder and the encoder are inverses of each other, the opcode map
selects the row that is decoded, and the decoded instruction spells the typed command of R68.
-/

namespace Sys2Proof.Proofs

open Sys2Proof.Machine Sys2Proof.Laws

/-! ### The decoder and the encoder (R62, R66) -/

/-- The row of an encoded instruction is read back from `op`, its fields from `b` and `a`. -/
theorem decode_encode (i : Instr) : decode (encode i) = i := by
  cases i with
  | enc b z m | cor c z y =>
    simp [encode, decode, opField_cmdWord, bField_cmdWord, aField_cmdWord, BitVec.extractLsb'_append_eq_left (a := z),
      BitVec.extractLsb'_append_eq_right (a := z)]
  | syn | dec | errat | randerr | apply | reserved7 =>
    simp [encode, decode, opField_cmdWord, bField_cmdWord, aField_cmdWord]

/-- Settles O1: each row's word gives back its `op` and its fields, a narrow operand and its checked bits apart. -/
theorem decodeEncodeEveryInstr : Obligations.DecodeEncodeEveryInstr := decode_encode

/-- The decoder keeps all three fields of the word, and the encoder puts them back where they were. -/
theorem encode_decode (w : CmdWord) : encode (decode w) = w := by
  have hMessage : (aField w).extractLsb' 4 3 ++ (aField w).extractLsb' 0 4 = aField w :=
    BitVec.extractLsb'_append_extractLsb'
  have hSyndrome : (bField w).extractLsb' 3 4 ++ (bField w).extractLsb' 0 3 = bField w :=
    BitVec.extractLsb'_append_extractLsb'
  have hFields : encode (decode w) = cmdWord (opField w) (bField w) (aField w) := by
    rcases opField_cases w with h | h | h | h | h | h | h | h <;>
      simp [decode, encode, h, hMessage, hSyndrome]
  rw [hFields, cmdWord_fields]

/-- Settles O2: a word is its three fields, and the decoder drops no bit of them. -/
theorem encodeDecodeEveryWord : Obligations.EncodeDecodeEveryWord := encode_decode

/-! ### The opcode map (R66) -/

theorem cmdWord_and (op op' : BitVec 3) (b b' a a' : BitVec 7) :
    cmdWord op b a &&& cmdWord op' b' a' = cmdWord (op &&& op') (b &&& b') (a &&& a') :=
  BitVec.and_append.trans (congrArg (· ++ (a &&& a')) BitVec.and_append)

/-- The mask of every row keeps `op` and clears the operands. -/
theorem and_opMask (w : CmdWord) : w &&& 0x1C000#17 = cmdWord (opField w) 0#7 0#7 :=
  calc w &&& 0x1C000#17
    _ = cmdWord (opField w) (bField w) (aField w) &&& cmdWord 7#3 0#7 0#7 := by rw [cmdWord_fields]; rfl
    _ = cmdWord (opField w &&& 7#3) 0#7 0#7 := by rw [cmdWord_and, BitVec.and_zero, BitVec.and_zero]
    _ = cmdWord (opField w) 0#7 0#7 := congrArg (cmdWord · 0#7 0#7) BitVec.and_allOnes

theorem mask_of_mem_opcodeTable : ∀ row ∈ opcodeTable, row.mask = 0x1C000#17 := by decide

/-- The row of a word depends on `op` alone. -/
theorem mnemonic_decode (w : CmdWord) :
    (decode w).mnemonic = (decode (cmdWord (opField w) 0#7 0#7)).mnemonic := by
  rcases opField_cases w with h | h | h | h | h | h | h | h <;>
    simp [decode, opField_cmdWord, Instr.mnemonic, h]

/-- The table row by row, at each of the eight codes. -/
theorem opcodeTable_selects (op : BitVec 3) :
    (∀ row ∈ opcodeTable, cmdWord op 0#7 0#7 = row.pattern ↔ (decode (cmdWord op 0#7 0#7)).mnemonic = row.mnemonic) ∧
    (opcodeTable.filter fun row => cmdWord op 0#7 0#7 == row.pattern).length = 1 := by
  revert op
  decide

/-- Settles O3: under its mask a word is its `op`, and each of the eight codes has its one row. -/
theorem opcodeMapPartitionsWords : Obligations.OpcodeMapPartitionsWords := by
  intro w
  obtain ⟨hRow, hOne⟩ := opcodeTable_selects (opField w)
  have hMasked : ∀ row ∈ opcodeTable, w &&& row.mask = cmdWord (opField w) 0#7 0#7 := fun row h => by
    rw [mask_of_mem_opcodeTable row h, and_opMask]
  refine ⟨fun row h => ?row, ?unique⟩
  case row => rw [hMasked row h, mnemonic_decode w, hRow row h]
  case unique =>
    rw [← hOne]
    exact congrArg List.length (List.filter_congr fun row h => by rw [hMasked row h])

/-- Settles O4: the decoder evaluated at each of the ten words. -/
theorem spelledWordsDecode : Obligations.SpelledWordsDecode := by
  unfold Obligations.SpelledWordsDecode
  decide

/-! ### Typed commands (R64, R67, R68) -/

/-- Settles O5: one case per row, and two where a narrow operand is checked. -/
theorem decoderRefinesTypedCommand : Obligations.DecoderRefinesTypedCommand := decodeCmd_eq_typedCmd

theorem exists_messageOperand_iff (z : BitVec 3) (m : Vec 4) :
    (∃ c : Cmd, (messageOperand z m).map .enc = .ok c) ↔ z = 0#3 := by
  obtain ⟨rfl, hm⟩ | ⟨hz, hm⟩ := messageOperand_cases z m
  · simp [hm, Except.map]
  · simp [hm, hz, Except.map]

theorem exists_syndromeOperand_iff (c : Vec 7) (z : BitVec 4) (y : Vec 3) :
    (∃ d : Cmd, (syndromeOperand z y).map (.cor c) = .ok d) ↔ z = 0#4 := by
  obtain ⟨rfl, hy⟩ | ⟨hz, hy⟩ := syndromeOperand_cases z y
  · simp [hy, Except.map]
  · simp [hy, hz, Except.map]

/-- Settles O6: a typed command is spelled unless a checked bit is set or the code is the reserved one. -/
theorem wellFormedSpellsCommand : Obligations.WellFormedSpellsCommand := by
  intro i
  cases i with
  | enc b z m => rw [typedCmd, exists_messageOperand_iff, Instr.wellFormed, beq_iff_eq]
  | cor c z y => rw [typedCmd, exists_syndromeOperand_iff, Instr.wellFormed, beq_iff_eq]
  | syn | dec | errat | randerr | apply => exact ⟨fun _ => ⟨_, rfl⟩, fun _ => rfl⟩
  | reserved7 b a => simp [Instr.wellFormed, typedCmd]

/-- A number the decoder reads an instruction from is a word of the port. -/
theorem decode_of_decodeTableWord {nbits w : Nat} {i : Instr} (h : decodeTableWord nbits w = some i) :
    decode (BitVec.ofNat 17 (w % 2 ^ nbits)) = i := by
  unfold decodeTableWord decodeNumber at h
  by_cases hw : w % 2 ^ nbits < 2 ^ 17
  · rw [if_pos hw] at h
    exact Option.some.inj h
  · rw [if_neg hw] at h
    cases h

theorem step_of_decode {s : State} {i : Instr} (h : decode s.cmd = i) : step s = exec i s := by rw [step, h]

/-- Settles O7: a step is `exec` of the decoded word, and the port is driven with the number that was decoded. -/
theorem stepRunsDecodedInstr : Obligations.StepRunsDecodedInstr :=
  ⟨fun _ _ => step_of_decode, fun s nbits w _ h =>
    step_of_decode ((congrArg decode (withFetchWord_cmd s nbits w)).trans (decode_of_decodeTableWord h))⟩

end Sys2Proof.Proofs
end

section
/-!
PROOFS. What every instruction and every step does to the ports (20_memory.md section 4): it is answered with a next state
in which only the response word is new, settled and legal.
-/

namespace Sys2Proof.Proofs

open Sys2Proof.Machine Sys2Proof.Laws

/-! ### Every instruction is answered (R49, R50) -/

/-- All an instruction can do is drive the response wires. -/
theorem exec_next {i : Instr} {s t : State} (h : exec i s = .next t) :
    t = s.answer (typedResp netlist (drawOperand s.rnd) (typedCmd i)) := by
  rw [exec_eq_answer] at h
  cases h
  rfl

/-- All a step can do is drive the response wires with the function of the inputs. -/
theorem step_next {s t : State} (h : step s = .next t) : t = { s with rsp := respond netlist s.cmd s.rnd } := by
  rw [step_eq_respond] at h
  cases h
  rfl

/-- Settles O9: every instruction drives a response, and so does every step. -/
theorem everyCommandAnswered : Obligations.EveryCommandAnswered :=
  ⟨fun i s => ⟨_, exec_eq_answer i s⟩, fun s => ⟨_, step_eq_respond s⟩⟩

/-- Settles O10: driving the response wires leaves the inputs as they are. -/
theorem instructionFrame : Obligations.InstructionFrame := by
  intro i s t h
  rw [exec_next h]
  exact ⟨answer_cmd _ s, answer_rnd _ s⟩

/-! ### The ports after a step (R50, R70) -/

/-- A response with a fault has `y` zero (R148). -/
theorem rspY_respond_of_fault (cfg : Cfg) {w : CmdWord} {r : Draw} (h : rspFault (respond cfg w r) ≠ 0#2) :
    rspY (respond cfg w r) = 0#7 := by
  rw [rspFault_respond] at h
  rw [respond_of_faultTable_ne_zero cfg h, rspY_rspWord]

/-- Settles O13: the response is `respond` of inputs the step did not change. -/
theorem stepSettlesPorts : Obligations.StepSettlesPorts := by
  intro s t h
  rw [step_next h]
  exact ⟨rfl, rspY_respond_of_fault netlist⟩

/-- Settles O14: a step replaces `rsp` by `respond` of the inputs, which is no change exactly where it is that already. -/
theorem settledIsFixedPoint : Obligations.SettledIsFixedPoint := by
  intro s
  rw [State.Settled]
  constructor
  · exact step_next_rsp
  · intro h
    rw [step_eq_respond, ← h]

/-- Settles O8: at inputs 0 the response is that to ENC of the zero message, which is 0. -/
theorem resetIsSettled : Obligations.ResetIsSettled := by
  refine ⟨?settled, fun _ => ?legal⟩
  case settled =>
    rw [State.Settled, reset_cmd, reset_rnd, reset_rsp]
    decide
  case legal =>
    rw [reset_rsp]
    decide

/-- What was on the ports before they are driven does not reach the step. -/
theorem step_drive (s : State) (w : CmdWord) (r : Draw) :
    step (s.drive w r) = .next ⟨w, r, respond netlist w r⟩ := step_eq_respond (s.drive w r)

/-- Settles O16: after `drive`, a step depends on the driven word and draw alone. -/
theorem noLastingEffect : Obligations.NoLastingEffect := fun s t w r => by rw [step_drive, step_drive]

end Sys2Proof.Proofs
end

section
/-!
PROOFS. What each instruction answers at the ports, from every state: the refused operands (30_encoding.md R64), and the
results of SYN, DEC, ERRAT, RANDERR, APPLY and COR (42_syndrome.md to 45_correct.md).
-/

namespace Sys2Proof.Proofs

open Sys2Proof.Machine Sys2Proof.Laws

/-! ### Results and operands narrower than their field (R64, R72) -/

/-- A narrow vector on a wider field has zeros above it. -/
theorem zeroExtend_eq_append {k n : Nat} (v : Vec n) : v.zeroExtend (k + n) = 0#k ++ v := by
  apply vec_ext
  intro i hi
  rw [BitVec.zeroExtend, BitVec.getLsbD_setWidth, BitVec.getLsbD_append, decide_eq_true hi, Bool.true_and]
  by_cases h : i < n
  · rw [if_pos h]
  · rw [if_neg h, BitVec.getLsbD_zero, BitVec.getLsbD_of_ge v i (Nat.le_of_not_lt h)]

/-- The bits above a narrow vector, read as a field. -/
theorem extractLsb'_zeroExtend {k n : Nat} (v : Vec n) : (v.zeroExtend (k + n)).extractLsb' n k = 0#k := by
  rw [zeroExtend_eq_append, BitVec.extractLsb'_append_eq_left]

/-! ### ENC and COR of an operand that does not fit (R64) -/

theorem messageOperand_of_ne_zero {z : BitVec 3} (hz : z ≠ 0#3) (m : Vec 4) :
    messageOperand z m = .error .dimensionMismatch := if_neg hz

theorem syndromeOperand_of_ne_zero {z : BitVec 4} (hz : z ≠ 0#4) (y : Vec 3) :
    syndromeOperand z y = .error .dimensionMismatch := if_neg hz

/-- Settles O21: a refused operand is a fault of the command's decoding. -/
theorem checkedBitsRefused : Obligations.CheckedBitsRefused := by
  refine ⟨fun b z m s hz => ?enc, fun c z y s hz => ?cor⟩
  case enc => rw [exec_eq_answer, typedCmd, messageOperand_of_ne_zero hz]; rfl
  case cor => rw [exec_eq_answer, typedCmd, syndromeOperand_of_ne_zero hz]; rfl

/-! ### SYN (R95) -/

/-- The XOR of the one-based indices below `n + 1` of the ones of a vector. -/
def indexSum (c : Vec 7) (n : Nat) : Nat :=
  (List.range n).foldl (fun k j => if c.getLsbD j then k ^^^ (j + 1) else k) 0

theorem indexSum_succ (c : Vec 7) (n : Nat) :
    indexSum c (n + 1) = if c.getLsbD n then indexSum c n ^^^ (n + 1) else indexSum c n := by
  rw [indexSum, List.range_succ, List.foldl_append]
  rfl

/-- Clause CI3: column `j` of H reads `j + 1`, so a sum of columns reads the XOR of their one-based indices. -/
theorem val_sumSelectedColumns {cfg : Cfg} (h : ErrorLocationClause cfg) (c : Vec 7) {n : Nat} (hn : n ≤ 7) :
    val cfg.synOrder (sumSelectedColumns cfg.H c n) = indexSum c n := by
  induction n with
  | zero => exact val_zero cfg.synOrder
  | succ n ih =>
    have hcolumn : val cfg.synOrder (column cfg.H n) = n + 1 := by
      rw [← mulVec_unitVec cfg.H (by omega)]
      exact h n (by omega)
    rw [sumSelectedColumns_succ, indexSum_succ, ← ih (by omega)]
    cases c.getLsbD n with
    | false => rfl
    | true => rw [if_pos rfl, if_pos rfl, val_vecAdd, hcolumn]

/-- The syndrome of any vector reads the XOR of the one-based indices of its ones. -/
theorem val_opSyn {cfg : Cfg} (h : ErrorLocationClause cfg) (c : Vec 7) :
    val cfg.synOrder (opSyn cfg c) = indexSum c 7 := by
  rw [opSyn, mulVec_eq_sumSelectedColumns, val_sumSelectedColumns h c (Nat.le_refl 7)]

theorem errorLocationClause_netlist : ErrorLocationClause netlist := by decide

theorem exec_syn_rspWord (b c : BitVec 7) (s : State) :
    exec (.syn b c) s = .next { s with rsp := rspWord 0#2 ((opSyn netlist c).zeroExtend 7) } := rfl

/-- Settles O22: `y` is the syndrome with zeros above it, and its number is the XOR of the indices by clause CI3. -/
theorem synAnswersIndexSum : Obligations.SynAnswersIndexSum := by
  intro b c s
  have hval : ((opSyn netlist c).zeroExtend 7).toNat = val .lsbFirst (opSyn netlist c) := by
    rw [val_lsbFirst, BitVec.zeroExtend, BitVec.toNat_setWidth_of_le (by decide)]
  refine ⟨_, exec_syn_rspWord b c s, rfl, rfl, rspFault_rspWord _ _, ?_⟩
  rw [rspY_rspWord]
  refine ⟨hval.trans (val_opSyn errorLocationClause_netlist c), hval, extractLsb'_zeroExtend (k := 4) _⟩

/-! ### DEC (R100) -/

theorem exec_dec_decGates (b c : BitVec 7) (s : State) :
    exec (.dec b c) s = .next { s with rsp := rspWord 0#2 ((decGates c).zeroExtend 7) } := by
  rw [← opDec_eq_decGates]
  rfl

/-- Settles O23: DEC answers the extractor's wires, with zeros above them. -/
theorem decAnswersMessageBits : Obligations.DecAnswersMessageBits := by
  intro b c s
  refine ⟨_, exec_dec_decGates b c s, rfl, rfl, rspFault_rspWord _ _, ?_⟩
  rw [rspY_rspWord]
  refine ⟨?_, ?_, ?_, ?_, extractLsb'_zeroExtend (k := 3) _⟩ <;> simp [decGates]

/-! ### The error vectors (R105, R108, R110) -/

/-- The word of a unit vector on the response wires: the table of its seven positions. -/
theorem rspWord_unitVec : ∀ n : Nat, n < 7 → rspWord 0#2 (unitVec 7 n) = BitVec.ofNat 9 (2 ^ n) := by decide

theorem encodeRsp_opErrat_of_lt {n : Nat} (hn : n < 7) :
    encodeRsp (respOfVec7 (opErrat n)) = BitVec.ofNat 9 (2 ^ n) := by
  rw [opErrat_nat hn]
  exact rspWord_unitVec n hn

theorem opErrat_of_le {n : Nat} (hn : 7 ≤ n) : opErrat n = .error .outOfRange := if_pos (.inr (by omega))

theorem encodeRsp_opErrat_of_le {n : Nat} (hn : 7 ≤ n) : encodeRsp (respOfVec7 (opErrat n)) = 0x100#9 := by
  rw [opErrat_of_le hn]
  rfl

theorem exec_errat (b p : BitVec 7) (s : State) :
    exec (.errat b p) s = .next { s with rsp := encodeRsp (respOfVec7 (opErrat p.toNat)) } := execErrat_eq b p s

theorem exec_randerr (b a : BitVec 7) (s : State) :
    exec (.randerr b a) s = .next { s with rsp := encodeRsp (respOfVec7 (opErrat s.rnd.toNat)) } := execRanderr_eq b a s

/-- Settles O24: ERRAT of the field, read as an unsigned number. -/
theorem erratAnswersUnitVector : Obligations.ErratAnswersUnitVector := fun b p s =>
  ⟨fun hp => by rw [exec_errat, encodeRsp_opErrat_of_lt hp], fun hp => by rw [exec_errat, encodeRsp_opErrat_of_le hp]⟩

/-- Settles O25: RANDERR is ERRAT of the draw. -/
theorem randerrAnswersDrawnVector : Obligations.RanderrAnswersDrawnVector := fun b a s =>
  ⟨fun hr => by rw [exec_randerr, encodeRsp_opErrat_of_lt hr],
    fun hr => by rw [exec_randerr, encodeRsp_opErrat_of_le (Nat.le_of_not_lt hr)]⟩

/-- Settles O26: the sum of two vectors is their bitwise XOR. -/
theorem applyAnswersSum : Obligations.ApplyAnswersSum := by
  intro c e s
  rw [← vecAdd_eq_xor]
  rfl

/-! ### COR (R115, R117) -/

theorem exec_cor_corGates (c : Vec 7) (y : Vec 3) (s : State) :
    exec (.cor c 0#4 y) s = .next { s with rsp := rspWord 0#2 (corGates c y) } :=
  exec_cor_of_ok (opCor_eq_corGates c y) s

theorem corGates_zero (c : Vec 7) : corGates c 0#3 = c :=
  Except.ok.inj ((opCor_eq_corGates c 0#3).symm.trans (opCor_zero netlist c (val_zero _)))

/-- Settles O27: COR answers its XOR gates, each of which inverts its bit where the syndrome names it. -/
theorem corInvertsNamedElement : Obligations.CorInvertsNamedElement := by
  intro c y s
  refine ⟨_, exec_cor_corGates c y s, rfl, rfl, rspFault_rspWord _ _, ?_⟩
  rw [rspY_rspWord, ← val_lsbFirst]
  exact ⟨fun hy => hy ▸ corGates_zero c, fun i hi => corGates_getLsbD c y hi⟩

theorem faultTable_cor_ne_two {w : CmdWord} (h : opField w = 6#3) (r : Draw) : faultTable w r ≠ 2#2 := by
  by_cases hz : (bField w).extractLsb' 3 4 = 0#4 <;> simp [faultTable, h, hz]

/-- Settles O29: COR is total at the operation level, and at the ports its one fault is `DimensionMismatch`. -/
theorem corNeverOutOfRange : Obligations.CorNeverOutOfRange := by
  refine ⟨fun cfg c y h => ?typed, fun s t hop h => ?ports⟩
  case typed =>
    obtain ⟨v, hv⟩ := opCor_ok cfg c y
    cases hv.symm.trans h
  case ports =>
    rw [step_next_rsp h, rspFault_respond]
    exact faultTable_cor_ne_two hop s.rnd

/-! ### The columns of the matrices at the ports (R26) -/

/-- Settles O31: the product with a unit vector is the column it selects. -/
theorem columnsObservable : Obligations.ColumnsObservable := by
  refine ⟨fun b s j hj => ?enc, fun b s j hj => ?syn, fun b s j hj => ?dec⟩
  case enc => rw [exec_enc, opEnc, mulVec_unitVec _ hj]; rfl
  case syn => rw [exec_syn, opSyn_unitVec netlist hj]; rfl
  case dec => rw [exec_dec, opDec_unitVec netlist hj]; rfl

end Sys2Proof.Proofs
end

section
/-!
PROOFS. The operation level on untyped sequences (30_encoding.md R64): a sequence of the operation's length is the vector
it lists, and one of any other length is refused.
-/

namespace Sys2Proof.Proofs

open Sys2Proof.Machine Sys2Proof.Laws

/-! ### Sequences as vectors -/

theorem vecOfList_of_length_ne {n : Nat} {l : List Bool} (h : l.length ≠ n) :
    vecOfList n l = .error .dimensionMismatch := if_neg h

theorem vecOfList_of_length_eq {n : Nat} {l : List Bool} (h : l.length = n) : ∃ v : Vec n, vecOfList n l = .ok v :=
  ⟨_, if_pos h⟩

theorem length_listOf {n : Nat} (v : Vec n) : (listOf v).length = n := by
  rw [listOf, List.length_map, List.length_range]

theorem getD_listOf {n : Nat} (v : Vec n) {i : Nat} (hi : i < n) : (listOf v).getD i false = v.getLsbD i := by
  simp [listOf, hi]

/-- The list form of a vector is read back as the vector. -/
theorem vecOfList_listOf {n : Nat} (v : Vec n) : vecOfList n (listOf v) = .ok v := by
  rw [vecOfList, if_pos (length_listOf v)]
  congr 1
  apply vec_ext
  intro i hi
  rw [vecOf_getLsbD, getD_listOf v hi, decide_eq_true hi, Bool.true_and]

/-! ### Operations on two sequences -/

theorem seqApply_of_length_ne {c e : List Bool} (h : c.length ≠ 7 ∨ e.length ≠ 7) :
    seqApply c e = .error .dimensionMismatch := by
  by_cases hc : c.length = 7
  · obtain ⟨v, hv⟩ := vecOfList_of_length_eq hc
    rw [seqApply, hv, vecOfList_of_length_ne (h.resolve_left (not_not_intro hc))]
  · rw [seqApply, vecOfList_of_length_ne hc]

theorem seqCor_of_length_ne (cfg : Cfg) {c y : List Bool} (h : c.length ≠ 7 ∨ y.length ≠ 3) :
    seqCor cfg c y = .error .dimensionMismatch := by
  by_cases hc : c.length = 7
  · obtain ⟨v, hv⟩ := vecOfList_of_length_eq hc
    rw [seqCor, hv, vecOfList_of_length_ne (h.resolve_left (not_not_intro hc))]
  · rw [seqCor, vecOfList_of_length_ne hc]

/-- Settles O36: every operation reads its operands by `vecOfList`, which tests the length and undoes `listOf`. -/
theorem sequenceLengthsChecked : Obligations.SequenceLengthsChecked := by
  intro cfg
  refine ⟨fun m hm => ?encLength, fun c hc => ⟨?synLength, ?decLength⟩, fun _ _ => seqApply_of_length_ne,
    fun _ _ => seqCor_of_length_ne cfg, fun m => ?enc, fun c => ⟨?syn, ?dec⟩, fun c e => ?apply, fun c y => ?cor⟩
  case encLength => rw [seqEnc, vecOfList_of_length_ne hm]; rfl
  case synLength => rw [seqSyn, vecOfList_of_length_ne hc]; rfl
  case decLength => rw [seqDec, vecOfList_of_length_ne hc]; rfl
  case enc => rw [seqEnc, vecOfList_listOf]; rfl
  case syn => rw [seqSyn, vecOfList_listOf]; rfl
  case dec => rw [seqDec, vecOfList_listOf]; rfl
  case apply => rw [seqApply, vecOfList_listOf, vecOfList_listOf]
  case cor => rw [seqCor, vecOfList_listOf, vecOfList_listOf]

end Sys2Proof.Proofs
end

section
/-!
PROOFS. The configuration (10_state.md section 3): construction, what the location invariant forces (R29), and the two
syndrome orders (R31).
-/

namespace Sys2Proof.Proofs

open Sys2Proof.Machine Sys2Proof.Laws

/-! ### Construction (R27, R28) -/

theorem cfgOK_netlist : CfgOK netlist := by decide

theorem cfgOK_netlistMsb : CfgOK netlistMsb := by decide

theorem errorLocationClause_netlistMsb : ErrorLocationClause netlistMsb := cfgOK_netlistMsb.2.1

/-- Construction is its checks, and then the rows as they were offered. -/
theorem buildCfg_eq_some_iff (g h r : List (List Nat)) (o : SynOrder) (cfg : Cfg) :
    buildCfg g h r o = some cfg ↔
      dimensionsOk 7 4 g = true ∧ dimensionsOk 3 7 h = true ∧ dimensionsOk 4 7 r = true ∧
      cfg = ⟨matOfRows 7 4 g, matOfRows 3 7 h, matOfRows 4 7 r, o⟩ ∧ CfgOK cfg := by
  simp only [buildCfg, Option.ite_none_right_eq_some, Bool.and_eq_true, Option.some.injEq]
  constructor
  · rintro ⟨⟨⟨hg, hh⟩, hr⟩, hok, rfl⟩
    exact ⟨hg, hh, hr, rfl, hok⟩
  · rintro ⟨hg, hh, hr, rfl, hok⟩
    exact ⟨⟨⟨hg, hh⟩, hr⟩, hok, rfl⟩

/-- Settles O38: construction is its checks. -/
theorem constructionChecksInvariants : Obligations.ConstructionChecksInvariants := buildCfg_eq_some_iff

/-- Settles O37: the clauses evaluated for both orders, and the printed rows, which pass the checks of construction. -/
theorem netlistMeetsInvariants : Obligations.NetlistMeetsInvariants := by
  refine ⟨cfgOK_netlist, cfgOK_netlistMsb, ?_⟩
  rw [buildCfg_eq_some_iff]
  exact ⟨by decide, by decide, by decide, by decide, cfgOK_netlist⟩

/-! ### The forced parity-check matrix (R29 (a)) -/

theorem row_getLsbD {r c : Nat} (A : Mat r c) {i : Nat} (hi : i < r) (j : Nat) : A[i].getLsbD j = entry A i j := by
  rw [entry, Vector.getElem?_eq_getElem hi, Option.getD_some]

/-- A matrix is its columns. -/
theorem mat_ext_column {r c : Nat} {A B : Mat r c} (h : ∀ j : Nat, j < c → column A j = column B j) : A = B := by
  apply Vector.ext
  intro i hi
  apply vec_ext
  intro j hj
  have hentry := congrArg (fun v => BitVec.getLsbD v i) (h j hj)
  simpa [hi, row_getLsbD] using hentry

/-- Clause CI3 gives each column of H by its `val`. -/
theorem parityCheck_unique {cfg cfg' : Cfg} (ho : cfg.synOrder = cfg'.synOrder) (h : ErrorLocationClause cfg)
    (h' : ErrorLocationClause cfg') : cfg.H = cfg'.H := by
  refine mat_ext_column fun p hp => ?_
  rw [← mulVec_unitVec cfg.H hp, ← mulVec_unitVec cfg'.H hp]
  apply val_injective cfg.synOrder
  rw [h p hp, ho, h' p hp]

/-- Settles O39: in each order this hardware's matrix meets the clause, and no other can. -/
theorem parityCheckForced : Obligations.ParityCheckForced := by
  intro cfg h
  cases ho : cfg.synOrder with
  | lsbFirst => exact parityCheck_unique (cfg' := netlist) ho h errorLocationClause_netlist
  | msbFirst => exact parityCheck_unique (cfg' := netlistMsb) ho h errorLocationClause_netlistMsb

/-! ### The forced codewords (R29 (d)) -/

/-- The syndrome of a vector is zero exactly where the one-based indices of its ones XOR to 0. -/
theorem validCodeword_iff_indexSum {cfg : Cfg} (h : CfgOK cfg) (c : Vec 7) :
    ValidCodeword cfg c ↔ indexSum c 7 = 0 := by
  rw [← opSyn_eq_zero_iff h, ← val_opSyn h.2.1]
  constructor
  · intro hzero
    rw [hzero, val_zero]
  · intro hzero
    exact val_injective cfg.synOrder (hzero.trans (val_zero _).symm)

/-- Settles O40: codewords have zero syndrome, and the indices of the ones of `0x75` XOR to 6. -/
theorem codewordSetForced : Obligations.CodewordSetForced := by
  refine fun cfg h => ⟨validCodeword_iff_indexSum h, ?literal⟩
  rw [validCodeword_iff_indexSum h]
  decide

/-! ### The two syndrome orders (R31) -/

/-- The rows of the one parity-check matrix are those of the other, last row first. -/
theorem entry_matHMsb {k : Nat} (hk : k < 3) (j : Nat) : entry matHMsb k j = entry matH (2 - k) j := by
  interval_cases k <;> rfl

/-- Reversing the order of the checks does not change which G pass them all. -/
theorem zeroSyndromeClause_msbFirst_iff (G : Mat 7 4) (R : Mat 4 7) :
    ZeroSyndromeClause ⟨G, matHMsb, R, .msbFirst⟩ ↔ ZeroSyndromeClause ⟨G, matH, R, .lsbFirst⟩ := by
  constructor
  · intro h k hk j hj
    have hrow := h (2 - k) (by omega) j hj
    simpa only [entry_matHMsb (show 2 - k < 3 by omega), show 2 - (2 - k) = k by omega] using hrow
  · intro h k hk j hj
    simpa only [entry_matHMsb hk] using h (2 - k) (by omega) j hj

theorem cfgOK_msbFirst_iff (G : Mat 7 4) (R : Mat 4 7) :
    CfgOK ⟨G, matH, R, .lsbFirst⟩ ↔ CfgOK ⟨G, matHMsb, R, .msbFirst⟩ := by
  have hLsb : ErrorLocationClause ⟨G, matH, R, .lsbFirst⟩ := errorLocationClause_netlist
  have hMsb : ErrorLocationClause ⟨G, matHMsb, R, .msbFirst⟩ := errorLocationClause_netlistMsb
  exact and_congr_right fun _ => and_congr (iff_of_true hLsb hMsb) (zeroSyndromeClause_msbFirst_iff G R).symm

theorem mulVec_matHMsb_getLsbD (c : Vec 7) {k : Nat} (hk : k < 3) :
    (mulVec matHMsb c).getLsbD k = (mulVec matH c).getLsbD (2 - k) := by
  rw [mulVec_getLsbD_of_lt _ c hk, mulVec_getLsbD_of_lt _ c (by omega)]
  simp only [entry_matHMsb hk]

/-- Both orders give a vector's syndrome the same number. -/
theorem val_mulVec_matHMsb (c : Vec 7) : val .msbFirst (mulVec matHMsb c) = val .lsbFirst (mulVec matH c) := by
  have hMsb : val netlistMsb.synOrder (opSyn netlistMsb c) = indexSum c 7 := val_opSyn errorLocationClause_netlistMsb c
  have hLsb : val netlist.synOrder (opSyn netlist c) = indexSum c 7 := val_opSyn errorLocationClause_netlist c
  exact hMsb.trans hLsb.symm

/-- COR reads a syndrome through `val` alone, so FIX is the same under both orders. -/
theorem opFix_msbFirst (G : Mat 7 4) (R : Mat 4 7) (c : Vec 7) :
    opFix ⟨G, matHMsb, R, .msbFirst⟩ c = opFix ⟨G, matH, R, .lsbFirst⟩ c := by
  rw [opFix_eq_namedError, opFix_eq_namedError]
  simp only [opSyn, namedError, val_mulVec_matHMsb]

/-- Settles O41: the rows of H are reversed and so are the syndromes, whose `val` is the same. -/
theorem syndromeOrdersAgree : Obligations.SyndromeOrdersAgree := by
  refine fun G R => ⟨cfgOK_msbFirst_iff G R, fun c => ⟨fun k hk => mulVec_matHMsb_getLsbD c hk, val_mulVec_matHMsb c,
    opFix_msbFirst G R c, ?recover⟩⟩
  case recover => rw [opRecover, opFix_msbFirst]; rfl

end Sys2Proof.Proofs
end

section
/-!
PROOFS. The host beside the core (30_encoding.md section 6, 70_reset_and_hazards.md): the responses to the words a host
drives, the message journey at the ports (R126, R166), where a host run ends (R172), and the pseudo-operations (R75).
-/

namespace Sys2Proof.Proofs

open Sys2Proof.Machine Sys2Proof.Laws

/-! ### The responses to the words a host drives -/

/-- A driven word is answered with the response to what its instruction spells. -/
theorem respond_encode (cfg : Cfg) (i : Instr) (r : Draw) :
    respond cfg (encode i) r = encodeRsp (typedResp cfg r.toNat (typedCmd i)) := by
  rw [respond_eq_encodeRsp, decodeCmd_eq_typedCmd, decode_encode]

theorem encode_enc_zero (b : BitVec 7) (m : Vec 4) : encode (.enc b 0#3 m) = cmdWord 0#3 b (m.zeroExtend 7) :=
  congrArg (cmdWord 0#3 b) (zeroExtend_eq_append (k := 3) m).symm

theorem encode_cor_zero (c : Vec 7) (y : Vec 3) : encode (.cor c 0#4 y) = cmdWord 6#3 (y.zeroExtend 7) c :=
  congrArg (cmdWord 6#3 · c) (zeroExtend_eq_append (k := 4) y).symm

theorem respond_enc (cfg : Cfg) (m : Vec 4) (r : Draw) :
    respond cfg (cmdWord 0#3 0#7 (m.zeroExtend 7)) r = rspWord 0#2 (opEnc cfg m) := by
  rw [← encode_enc_zero, respond_encode]
  rfl

theorem respond_syn (cfg : Cfg) (c : Vec 7) (r : Draw) :
    respond cfg (cmdWord 1#3 0#7 c) r = rspWord 0#2 ((opSyn cfg c).zeroExtend 7) :=
  respond_encode cfg (.syn 0#7 c) r

theorem respond_dec (cfg : Cfg) (c : Vec 7) (r : Draw) :
    respond cfg (cmdWord 2#3 0#7 c) r = rspWord 0#2 ((opDec cfg c).zeroExtend 7) :=
  respond_encode cfg (.dec 0#7 c) r

theorem respond_errat (cfg : Cfg) (p : BitVec 7) (r : Draw) :
    respond cfg (cmdWord 3#3 0#7 p) r = encodeRsp (respOfVec7 (opErrat p.toNat)) :=
  respond_encode cfg (.errat 0#7 p) r

theorem respond_errat_of_lt (cfg : Cfg) {p : BitVec 7} (hp : p.toNat < 7) (r : Draw) :
    respond cfg (cmdWord 3#3 0#7 p) r = rspWord 0#2 (unitVec 7 p.toNat) := by
  rw [respond_errat, opErrat_nat hp]
  rfl

theorem respond_errat_of_le (cfg : Cfg) {p : BitVec 7} (hp : 7 ≤ p.toNat) (r : Draw) :
    respond cfg (cmdWord 3#3 0#7 p) r = rspWord (faultCode .outOfRange) 0#7 := by
  rw [respond_errat, opErrat_of_le hp]
  rfl

theorem respond_apply (cfg : Cfg) (c e : Vec 7) (r : Draw) :
    respond cfg (cmdWord 5#3 e c) r = rspWord 0#2 (vecAdd c e) := respond_encode cfg (.apply c e) r

theorem respond_cor (cfg : Cfg) {c u : Vec 7} {y : Vec 3} (hu : opCor cfg c y = .ok u) (r : Draw) :
    respond cfg (cmdWord 6#3 (y.zeroExtend 7) c) r = rspWord 0#2 u := by
  have hy : syndromeOperand 0#4 y = .ok y := rfl
  rw [← encode_cor_zero, respond_encode, typedCmd, hy, Except.map, typedResp, evalCmd, hu]
  rfl

/-! ### The journey at the ports (R126, R166) -/

/-- A driven word whose response has no fault is answered with its `y`. -/
theorem step_drive_answered (s : State) {w : CmdWord} {r : Draw} {y : Vec 7}
    (h : respond netlist w r = rspWord 0#2 y) :
    ∃ t : State, step (s.drive w r) = .next t ∧ t.FaultFree ∧ rspY t.rsp = y := by
  refine ⟨_, step_drive s w r, ?_⟩
  rw [State.FaultFree, h]
  exact ⟨rspFault_rspWord 0#2 y, rspY_rspWord 0#2 y⟩

/-- Settles O55: each of the six words is answered by its operation, and FIX takes the one error away. -/
theorem portJourneyRecovers : Obligations.PortJourneyRecovers := by
  intro s m r p hp
  have hpos : (BitVec.ofNat 7 p).toNat = p := by
    rw [BitVec.toNat_ofNat, Nat.mod_eq_of_lt (by omega)]
  have hcode : ValidCodeword netlist (opEnc netlist m) := ⟨m, rfl⟩
  have hfix := opFix_codeword_vecAdd_unitVec cfgOK_netlist hcode hp
  have hval := val_opSyn_codeword_vecAdd_unitVec cfgOK_netlist hcode hp
  obtain ⟨s₁, h₁, f₁, y₁⟩ := step_drive_answered s (respond_enc netlist m r)
  obtain ⟨s₂, h₂, f₂, y₂⟩ := step_drive_answered s₁ (respond_errat_of_lt netlist (by rwa [hpos]) r)
  obtain ⟨s₃, h₃, f₃, y₃⟩ := step_drive_answered s₂ (respond_apply netlist (rspY s₁.rsp) (rspY s₂.rsp) r)
  rw [y₁, y₂, hpos] at y₃
  obtain ⟨s₄, h₄, f₄, y₄⟩ := step_drive_answered s₃ (respond_syn netlist (rspY s₃.rsp) r)
  rw [y₃] at y₄
  obtain ⟨s₅, h₅, f₅, y₅⟩ := step_drive_answered s₄ (respond_cor netlist hfix r)
  rw [← y₄, ← y₃] at h₅
  obtain ⟨s₆, h₆, f₆, y₆⟩ := step_drive_answered s₅ (respond_dec netlist (rspY s₅.rsp) r)
  refine ⟨s₁, s₂, s₃, s₄, s₅, s₆, h₁, f₁, h₂, f₂, h₃, f₃, h₄, f₄, h₅, f₅, h₆, f₆, ?position, y₅.trans y₁.symm, ?message⟩
  case position =>
    rw [y₄, BitVec.zeroExtend, BitVec.toNat_setWidth_of_le (by decide), ← val_lsbFirst]
    exact hval
  case message => rw [y₆, y₅, opDec_opEnc cfgOK_netlist.1]

/-! ### Where a host run ends (R172) -/

/-- Everything one line can do: name a value and let the run go on, or end it with the table as it was. -/
theorem runHost_line (l : HostLine) (t : HostTable) :
    (∃ e : Nat × Vec 7, ∀ q : List HostLine, runHost (l :: q) t = runHost q (e :: t)) ∨
    (∃ k : Fault, ∀ q : List HostLine, runHost (l :: q) t = .faulted k t) ∨
    (∀ q : List HostLine, runHost (l :: q) t = .unheld t) := by
  cases l with
  | noerr d => exact .inl ⟨(d, 0#7), fun _ => rfl⟩
  | issue d op r =>
    cases hw : hostWord t op with
    | none => exact .inr (.inr fun q => by simp only [runHost, hw])
    | some w =>
      cases hk : faultOfCode (rspFault (respond netlist w r)) with
      | none => exact .inl ⟨(d, rspY (respond netlist w r)), fun q => by simp only [runHost, hw, hk]⟩
      | some k => exact .inr (.inl ⟨k, fun q => by simp only [runHost, hw, hk]⟩)

/-- How a run goes on with further lines: from the table of a finished run, and not at all from any other end. -/
def continueRun (q : List HostLine) : HostEnd → HostEnd
  | .finished u => runHost q u
  | .faulted k u => .faulted k u
  | .unheld u => .unheld u

/-- The run of two programs one after the other is the run of the first, continued with the second. -/
theorem runHost_append (p q : List HostLine) (t : HostTable) :
    runHost (p ++ q) t = continueRun q (runHost p t) := by
  induction p generalizing t with
  | nil => rfl
  | cons l p ih =>
    rw [List.cons_append]
    obtain ⟨e, he⟩ | ⟨k, hk⟩ | hu := runHost_line l t
    · rw [he, he, ih]
    · rw [hk, hk, continueRun]
    · rw [hu, hu, continueRun]

/-- A run that finishes has named one value per line. -/
theorem length_of_runHost_finished {p : List HostLine} {t u : HostTable} (h : runHost p t = .finished u) :
    u.length = t.length + p.length := by
  induction p generalizing t with
  | nil =>
    cases h
    rfl
  | cons l p ih =>
    obtain ⟨e, he⟩ | ⟨k, hk⟩ | hu := runHost_line l t
    · rw [ih ((he p).symm.trans h), List.length_cons, List.length_cons, Nat.add_right_comm, Nat.add_assoc]
    · cases (hk p).symm.trans h
    · cases (hu p).symm.trans h

/-- Settles O56: a run is continued from its end, by induction on its lines, and a fault code ends it at its line. -/
theorem hostRunEnds : Obligations.HostRunEnds := by
  refine ⟨fun p q t u h => ?finished, fun p q t u k h => ?faulted, fun _ _ _ => length_of_runHost_finished,
    fun d op r q t w k hw hk => ?fault⟩
  case finished => rw [runHost_append, h, continueRun]
  case faulted => rw [runHost_append, h, continueRun]
  case fault => simp only [runHost, hw, hk, faultOfCode_faultCode]

/-! ### The words of host lines (R74) -/

theorem hostWord_errat {t : HostTable} {p : HostArg} {v : Vec 7} (h : argValue t p = some v) :
    hostWord t (.errat p) = some (cmdWord 3#3 0#7 v) := by
  rw [hostWord, h]
  rfl

theorem hostWord_syn {t : HostTable} {c : HostArg} {v : Vec 7} (h : argValue t c = some v) :
    hostWord t (.syn c) = some (cmdWord 1#3 0#7 v) := by
  rw [hostWord, h]
  rfl

theorem hostWord_dec {t : HostTable} {c : HostArg} {v : Vec 7} (h : argValue t c = some v) :
    hostWord t (.dec c) = some (cmdWord 2#3 0#7 v) := by
  rw [hostWord, h]
  rfl

theorem hostWord_apply {t : HostTable} {c e : HostArg} {v w : Vec 7} (hc : argValue t c = some v)
    (he : argValue t e = some w) : hostWord t (.apply c e) = some (cmdWord 5#3 w v) := by
  rw [hostWord, hc, he]
  rfl

theorem hostWord_cor {t : HostTable} {c y : HostArg} {v w : Vec 7} (hc : argValue t c = some v)
    (hy : argValue t y = some w) : hostWord t (.cor c y) = some (cmdWord 6#3 w v) := by
  rw [hostWord, hc, hy]
  rfl

/-! ### The pseudo-operations (R75) -/

section Pseudo

variable {c : HostArg} {vc : Vec 7} {t : HostTable} {x : Nat}

theorem runHost_flipLines (hc : argValue t c = some vc) (hcx : c ≠ .held x) {p : HostArg} {vp : Vec 7}
    (hp : argValue t p = some vp) (hlt : vp.toNat < 7) (d : Nat) :
    runHost (flipLines d c p x) t =
      .finished ((d, vecAdd vc (unitVec 7 vp.toNat)) :: (x, unitVec 7 vp.toNat) :: t) := by
  have hc' : argValue ((x, unitVec 7 vp.toNat) :: t) c = some vc := (argValue_other hcx t _).trans hc
  rw [flipLines, runHost_answered (hostWord_errat hp) (respond_errat_of_lt netlist hlt _),
    runHost_answered (hostWord_apply hc' (argValue_newest t x _)) (respond_apply netlist vc _ _), runHost]

theorem runHost_flipLines_of_le {p : HostArg} {vp : Vec 7} (hp : argValue t p = some vp) (hle : 7 ≤ vp.toNat)
    (d : Nat) : runHost (flipLines d c p x) t = .faulted .outOfRange t := by
  rw [flipLines, runHost_faulted (hostWord_errat hp) (respond_errat_of_le netlist hle _)]

/-- SYN and COR of FIX, whatever lines follow them. -/
theorem runHost_fixLines_append (hc : argValue t c = some vc) (hcx : c ≠ .held x) {u : Vec 7}
    (hu : opFix netlist vc = .ok u) (d : Nat) (q : List HostLine) :
    runHost (fixLines d c x ++ q) t = runHost q ((d, u) :: (x, (opSyn netlist vc).zeroExtend 7) :: t) := by
  have hc' : argValue ((x, (opSyn netlist vc).zeroExtend 7) :: t) c = some vc := (argValue_other hcx t _).trans hc
  rw [fixLines, List.cons_append, List.cons_append, List.nil_append,
    runHost_answered (hostWord_syn hc) (respond_syn netlist vc _),
    runHost_answered (hostWord_cor hc' (argValue_newest t x _)) (respond_cor netlist hu _)]

theorem runHost_fixLines (hc : argValue t c = some vc) (hcx : c ≠ .held x) {u : Vec 7}
    (hu : opFix netlist vc = .ok u) (d : Nat) :
    runHost (fixLines d c x) t = .finished ((d, u) :: (x, (opSyn netlist vc).zeroExtend 7) :: t) := by
  rw [← List.append_nil (fixLines d c x), runHost_fixLines_append hc hcx hu, runHost]

/-- RECOVER is FIX followed by DEC. -/
theorem runHost_recoverLines (hc : argValue t c = some vc) (hcx : c ≠ .held x) {u : Vec 7}
    (hu : opFix netlist vc = .ok u) (d y : Nat) :
    runHost (recoverLines d c x y) t = .finished
      ((d, (opDec netlist u).zeroExtend 7) :: (y, u) :: (x, (opSyn netlist vc).zeroExtend 7) :: t) := by
  have hlines : recoverLines d c x y = fixLines y c x ++ [.issue d (.dec (.held y)) 0#7] := rfl
  rw [hlines, runHost_fixLines_append hc hcx hu,
    runHost_answered (hostWord_dec (argValue_newest _ y u)) (respond_dec netlist u _), runHost]

end Pseudo

theorem opFlip_of_le (c : Vec 7) {p : Nat} (hp : 7 ≤ p) : opFlip c p = .error .outOfRange := by
  rw [opFlip, opErrat_of_le hp]

/-- Settles O57: each expansion line by line, the operand still held after the first temporary is named. -/
theorem pseudoOperationsExpand : Obligations.PseudoOperationsExpand := by
  refine ⟨fun c p vc vp t d x hc hp hcx => ⟨fun hlt => ?flip, fun hle => ?flipRefused⟩,
    fun c vc t d x hc hcx => ?fix, fun c vc t d x y hc hcx => ?recover, fun d q t => rfl⟩
  case flip => exact ⟨_, opFlip_of_lt vc hlt, runHost_flipLines hc hcx hp hlt d⟩
  case flipRefused => exact ⟨opFlip_of_le vc hle, runHost_flipLines_of_le hp hle d⟩
  case fix =>
    have hu := opFix_eq_namedError netlist vc
    exact ⟨_, hu, runHost_fixLines hc hcx hu d⟩
  case recover =>
    have hu := opFix_eq_namedError netlist vc
    exact ⟨_, _, hu, opRecover_of_opFix hu, runHost_recoverLines hc hcx hu d y⟩

end Sys2Proof.Proofs
end
